-- ==== Sys2Proof/Word.lean ====
section
/-! DEFINITION. The word types of the block (00_scope.md R6): every value is unsigned, nothing is sign-extended. -/

namespace Sys2Proof

/-- A byte, bits 7 down to 0 (R6): a wire byte, a buffer entry, an 8-bit register. -/
abbrev Byte := BitVec 8

/-- A nibble: "a 4-bit value, carried on the wire as one ASCII hex digit" (00_scope.md R9). -/
abbrev Nibble := BitVec 4

/-- The 10-bit transaction word W (30_encoding.md R68): W[9:8] the kind, W[7:0] the data. -/
abbrev CmdWord := BitVec 10

/-- The block's 4-bit status port (30_encoding.md R68, R71). -/
abbrev StatusCode := BitVec 4

end Sys2Proof
end

