-- ==== Sys2Proof/Config.lean ====
section
/-! DEFINITION. The parameters of one instance of the block (00_scope.md R5), the sizes derived from them, and the
reference host's two constants. The five OPEN parameters are data that a State carries and no rule writes (log entry 1);
every statement is about every value of them. -/

namespace Sys2Proof

/-- The OPEN parameters of 00_scope.md R5 (92_eei_decisions.md D2, D4, D5, D19), "fixed for the life of an instance". -/
structure Params where
  /-- MAX_MESSAGE_LENGTH: bound on a sent payload length (R161) and on a received length byte (R109). -/
  maxMessageLength : Nat
  /-- TX_EMIT_SOM: whether a send begins with the 0x0A start marker (R160). -/
  txEmitSom : Bool
  /-- ACCEPT_UNSOLICITED_RESPONSE: whether an ACK or NAK is recorded when nothing is outstanding (R102, R103). -/
  acceptUnsolicited : Bool
  /-- TIME_W: width in bits of the TIME input and of LAST_SENT_AT. -/
  timeW : Nat
  /-- T_TIMEOUT: the response window in TIME units (R141). -/
  tTimeout : Nat
  deriving DecidableEq, Repr

/-- The values R5 admits: an "integer with 1 ≤ MAX_MESSAGE_LENGTH ≤ 57"; the other parameters have no bound. -/
abbrev Params.Legal (p : Params) : Prop := 1 ≤ p.maxMessageLength ∧ p.maxMessageLength ≤ 57

/-- The reference values of R5, used by 95_test_vectors.md. -/
def Params.reference : Params :=
  { maxMessageLength := 56, txEmitSom := false, acceptUnsolicited := false, timeW := 32, tTimeout := 5000 }

/-- RX_BUF_SIZE (R5): entries of RXBUF. -/
def rxBufSize : Nat := 56

/-- TX_BUF_SIZE (R5, D3): entries of TXBUF, enough for the longest encoded frame. -/
def Params.txBufSize (p : Params) : Nat := 2 * (p.maxMessageLength + 2) + 1

/-- 2^TIME_W: TIME and LAST_SENT_AT count modulo this (R30, R141). -/
def Params.timeMod (p : Params) : Nat := 2 ^ p.timeW

/-- MAX_ATTEMPTS (R5): the reference host's transmissions per message. -/
def maxAttempts : Nat := 3

/-- QUEUE_CAPACITY (R5): the reference host's queue entries. -/
def queueCapacity : Nat := 8

end Sys2Proof
end

