-- ==== Sys2Proof/Syntax.lean ====
section
/-! DEFINITION. The transactions of the block (30_encoding.md R68, R69), one constructor per transaction class of
spec/opcode_table.json. The ten RX_HEX rows of the table are one class, whose operand is the digit (R69, R104; log entry 2). -/

namespace Sys2Proof

/-- One transaction at the block's interface: what the spec calls an instruction (00_scope.md R1). -/
inductive Instr where
  /-- RX_SOM (41_receive.md R101): the byte 0x0A. -/
  | rxSom
  /-- RX_ACK (R102): the byte 0x06. -/
  | rxAck
  /-- RX_NAK (R103): the byte 0x15. -/
  | rxNak
  /-- RX_HEX (R104): one of the 22 hex digit bytes. -/
  | rxHex (b : Byte)
  /-- RX_OTHER (R105): every other byte. -/
  | rxOther (b : Byte)
  /-- CMD_READY (42_ready_to_send.md R140): `x` is W[7:0], which the block ignores. -/
  | cmdReady (x : Byte)
  /-- CMD_SEND (43_transmit.md R160): the payload bytes p[0..n-1]; n is W[7:0]. -/
  | cmdSend (p : List Byte)
  /-- CMD_RESEND (R164): `x` is W[7:0], which the block ignores. -/
  | cmdResend (x : Byte)
  deriving DecidableEq, Repr

end Sys2Proof
end

