-- ==== Sys2Proof/WellFormed.lean ====
section
/-! DEFINITION. The byte classes of 30_encoding.md R60, and which instructions stand for a transaction that can be
presented: a digit operand is a digit, an RX_OTHER operand is in no other class, a SEND has at most 255 bytes (R68). -/

namespace Sys2Proof

/-- The classes of a received byte (R60). -/
inductive ByteClass where
  | som | ack | nak | hex | other
  deriving DecidableEq, Repr

/-- The 22 digit codes of R61: '0' to '9', 'A' to 'F', 'a' to 'f'. -/
def isHexDigit (b : Byte) : Bool :=
  (0x30#8 ≤ b && b ≤ 0x39#8) || (0x41#8 ≤ b && b ≤ 0x46#8) || (0x61#8 ≤ b && b ≤ 0x66#8)

/-- The one class of a byte, in R60's order of precedence. -/
def byteClass (b : Byte) : ByteClass :=
  if b = 0x0A#8 then .som
  else if b = 0x06#8 then .ack
  else if b = 0x15#8 then .nak
  else if isHexDigit b then .hex
  else .other

/-- Whether an instruction's operands are ones a transaction word and its payload can carry. -/
def Instr.check : Instr → Bool
  | .rxSom => true
  | .rxAck => true
  | .rxNak => true
  | .rxHex b => decide (byteClass b = .hex)
  | .rxOther b => decide (byteClass b = .other)
  | .cmdReady _ => true
  | .cmdSend p => decide (p.length ≤ 255)
  | .cmdResend _ => true

/-- Well-formed instructions: exactly those the decoder gives. -/
abbrev Instr.WellFormed (i : Instr) : Prop := i.check = true

end Sys2Proof
end

