-- ==== Sys2Proof/Decode.lean ====
section
/-! DEFINITION. The decoder of a presented transaction (30_encoding.md R68, R69), total on every word and every payload,
written from the opcode table's rows; and after it the encoder, written from the same table. -/

namespace Sys2Proof

/-- Why a presentation is no transaction. The words themselves never are to blame: "No transaction word is illegal and
none is reserved" (R70). -/
inductive DecodeError where
  /-- A SEND word says n payload bytes (R68) and fewer were presented (log entry 14). -/
  | payloadTooShort (needed got : Nat)
  deriving DecidableEq, Repr

/-- The transaction classes the table's rows select (R69). -/
inductive RowClass where
  | rxSom | rxAck | rxNak | rxHex | rxOther | cmdReady | cmdSend | cmdResend
  deriving DecidableEq, Repr

/-- A row of spec/opcode_table.json: it selects the words that agree with `bits` where `mask` has a one. -/
structure OpcodeRow where
  mask : CmdWord
  bits : CmdWord
  cls  : RowClass
  deriving DecidableEq, Repr

/-- Whether a row selects a word. -/
def OpcodeRow.selects (r : OpcodeRow) (w : CmdWord) : Bool := w &&& r.mask == r.bits

/-- How many mask bits a row has set: "A decoder picks the row with the most mask bits set among those that match" (R69). -/
def OpcodeRow.maskBits (r : OpcodeRow) : Nat :=
  (List.range 10).countP fun k => r.mask.getLsbD k

/-- The 17 rows of spec/opcode_table.json, RX_OTHER, the fall-back of lowest priority, last. -/
def opcodeTable : List OpcodeRow :=
  [ ⟨0x3FF, 0x00A, .rxSom⟩, ⟨0x3FF, 0x006, .rxAck⟩, ⟨0x3FF, 0x015, .rxNak⟩,
    ⟨0x3F8, 0x030, .rxHex⟩, ⟨0x3FE, 0x038, .rxHex⟩,
    ⟨0x3FF, 0x041, .rxHex⟩, ⟨0x3FE, 0x042, .rxHex⟩, ⟨0x3FE, 0x044, .rxHex⟩, ⟨0x3FF, 0x046, .rxHex⟩,
    ⟨0x3FF, 0x061, .rxHex⟩, ⟨0x3FE, 0x062, .rxHex⟩, ⟨0x3FE, 0x064, .rxHex⟩, ⟨0x3FF, 0x066, .rxHex⟩,
    ⟨0x300, 0x100, .cmdReady⟩, ⟨0x300, 0x200, .cmdSend⟩, ⟨0x300, 0x300, .cmdResend⟩,
    ⟨0x300, 0x000, .rxOther⟩ ]

/-- The row that decodes a word: the first that selects it, which is the one with the most mask bits (R69). -/
def rowOf (w : CmdWord) : Option OpcodeRow := opcodeTable.find? fun r => r.selects w

/-- W[7:0], the data of a word (R68). -/
def dataOf (w : CmdWord) : Byte := w.extractLsb' 0 8

/-- W[9:8], the kind of a word (R68). -/
def kindOf (w : CmdWord) : BitVec 2 := w.extractLsb' 8 2

/-- How many payload bytes a word's transaction reads: W[7:0] for a SEND, none for the others (R68). -/
def payloadNeed (w : CmdWord) : Nat :=
  if kindOf w = 2#2 then (dataOf w).toNat else 0

/-- A SEND's first n payload bytes and the bytes it does not read. -/
def decodeSend (n : Nat) (payload : List Byte) : Except DecodeError (Instr × List Byte) :=
  if n ≤ payload.length then .ok (.cmdSend (payload.take n), payload.drop n)
  else .error (.payloadTooShort n payload.length)

/-- The instruction a presented word and payload stand for, and the payload bytes it does not read (R68, R69). -/
def decode (w : CmdWord) (payload : List Byte) : Except DecodeError (Instr × List Byte) :=
  match (rowOf w).map OpcodeRow.cls with
  | some .rxSom => .ok (.rxSom, payload)
  | some .rxAck => .ok (.rxAck, payload)
  | some .rxNak => .ok (.rxNak, payload)
  | some .rxHex => .ok (.rxHex (dataOf w), payload)
  | some .rxOther => .ok (.rxOther (dataOf w), payload)
  | some .cmdReady => .ok (.cmdReady (dataOf w), payload)
  | some .cmdSend => decodeSend (dataOf w).toNat payload
  | some .cmdResend => .ok (.cmdResend (dataOf w), payload)
  | none => .ok (.rxOther (dataOf w), payload)

/-- The word of kind `k` and data `d` (R68). -/
def wordOf (k : BitVec 2) (d : Byte) : CmdWord := k ++ d

/-- The word and payload of an instruction (R68). -/
def encode : Instr → CmdWord × List Byte
  | .rxSom => (wordOf 0 0x0A, [])
  | .rxAck => (wordOf 0 0x06, [])
  | .rxNak => (wordOf 0 0x15, [])
  | .rxHex b => (wordOf 0 b, [])
  | .rxOther b => (wordOf 0 b, [])
  | .cmdReady x => (wordOf 1 x, [])
  | .cmdSend p => (wordOf 2 (BitVec.ofNat 8 p.length), p)
  | .cmdResend x => (wordOf 3 x, [])

/-- The RX transaction of a received byte (R60, R100). -/
def rxInstr (b : Byte) : Instr :=
  match byteClass b with
  | .som => .rxSom
  | .ack => .rxAck
  | .nak => .rxNak
  | .hex => .rxHex b
  | .other => .rxOther b

/-- The byte an RX transaction presents; none for a command. -/
def rxByteOf : Instr → Option Byte
  | .rxSom => some 0x0A
  | .rxAck => some 0x06
  | .rxNak => some 0x15
  | .rxHex b => some b
  | .rxOther b => some b
  | .cmdReady _ => none
  | .cmdSend _ => none
  | .cmdResend _ => none

/-- The payload presented when every bit above the table's is zero: the zero bytes a SEND word asks for. -/
def zeroPayload (w : CmdWord) : List Byte := List.replicate (payloadNeed w) 0

/-- What the decoder reads from a transaction whose bits are `w`, numbered as the table numbers them, every further bit 0.
W has 10 bits; a number with a bit above them is no transaction word. -/
def decodeTableWord (_nbits w : Nat) : Option Instr :=
  if w < 1024 then
    match decode (BitVec.ofNat 10 w) (zeroPayload (BitVec.ofNat 10 w)) with
    | .ok (i, _) => some i
    | .error _ => none
  else none

end Sys2Proof
end

