-- ==== Sys2Proof/Machine/State.lean ====
section
/-! DEFINITION. The state of the block (10_state.md), what its environment has supplied and seen, the reasons the model
stops, and the state after reset (70_reset_and_hazards.md R280). Plain data throughout. -/

namespace Sys2Proof.Machine

/-- A status of the STATUS port, also what `Emit` and `Deliver` answer (30_encoding.md R71, 60_exceptions.md R241). -/
inductive Status where
  | ok | wait | ack | nak | timeout | messageTooBig | badChecksum | junk
  /-- Returned by the reference host only (R201), never by the block itself. -/
  | queueFull
  /-- The codes 9 to 15, which only a sink or a consumer can answer (R71, I12). -/
  | reserved (k : Fin 7)
  deriving DecidableEq, Repr

/-- The 4-bit code of a status (R71). -/
def Status.code : Status → StatusCode
  | .ok => 0
  | .wait => 1
  | .ack => 2
  | .nak => 3
  | .timeout => 4
  | .messageTooBig => 5
  | .badChecksum => 6
  | .junk => 7
  | .queueFull => 8
  | .reserved k => BitVec.ofNat 4 (9 + k.val)

/-- ACK_STATE (10_state.md R27): the last recorded response, or none yet, or nothing sent since reset. -/
inductive AckState where
  | unset | ack | nak | idle
  deriving DecidableEq, Repr

/-- The 2-bit code of ACK_STATE (R27). -/
def AckState.code : AckState → BitVec 2
  | .unset => 0
  | .ack => 1
  | .nak => 2
  | .idle => 3

/-- How the sink or the consumer ends a call from the block: it returns a status (00_scope.md R7), or it presents a
transaction to the same instance before it returns, to which the spec gives no meaning (70_reset_and_hazards.md R285). -/
inductive Answer where
  | returns (c : Status)
  | reenters
  deriving DecidableEq, Repr

/-- What the environment sees of the block (10_state.md R34), in the order it happens (20_memory.md R47). -/
inductive Output where
  /-- `Emit(b)`: the byte offered on the TX port and the sink's answer; the byte was taken if the answer is Ok (R7). -/
  | offered (b : Byte) (c : Status)
  /-- `Deliver(p)`: the payload handed to the consumer and its answer (R7, R43). -/
  | delivered (p : List Byte) (c : Status)
  /-- The status on the STATUS port at the end of a transaction (R68). -/
  | returned (c : Status)
  deriving DecidableEq, Repr

/-- What the environment does to the block between transactions: it presents a transaction, or a directive of R72. -/
inductive Event where
  /-- A transaction: its word W, the payload bytes beside it, and the TIME input (30_encoding.md R68). -/
  | transaction (w : CmdWord) (payload : List Byte) (now : Nat)
  /-- SINK (R72): the answers of the next `Emit` calls; every later one answers Ok. -/
  | sink (answers : List Answer)
  /-- CONSUMER (R72): what `Deliver` answers from now on. -/
  | consumer (answer : Answer)
  /-- RESET (70_reset_and_hazards.md R280, R281). -/
  | reset
  /-- Two transactions presented so that they overlap in time (93_implementation_defined.md I10). -/
  | overlapping
  deriving DecidableEq, Repr

/-- A buffer: its written entries, (index, byte), indices strictly rising. An unlisted entry is unwritten: it reads as no
value (R26, R28, I8). -/
abbrev Memory := List Host.Cell

/-- The reasons the model stops in a fault. None is reachable in a state with the invariant of Safety.lean. -/
inductive Fault where
  /-- A checksum pair would deliver an RXBUF entry nothing has written (20_memory.md R41, I8): raised by `deliverPayload`. SAFE. -/
  | rxBufUnwritten
  /-- A RESEND would replay a TXBUF entry nothing has written (R42, I8): raised by `execCmdResend`. SAFE. -/
  | txBufUnwritten
  /-- A payload pair would write RXBUF at an index that does not exist (R40): raised by `payloadPair`. SAFE. -/
  | rxBufRange
  /-- A SEND would write TXBUF at an index that does not exist (R40): raised by `execCmdSend`. SAFE. -/
  | txBufRange
  deriving DecidableEq, Repr

/-- The reasons the model gives an event no meaning. -/
inductive Refusal where
  /-- An instruction without a meaning yet: raised by `exec`'s arms alone. SAFE. -/
  | notModelled (mnemonic : String)
  /-- The sink or the consumer presented a transaction before it returned: "This spec gives a re-entrant call no meaning. A
  model refuses it" (R285, I9). Raised by every transaction that emits or delivers. SAFE. -/
  | reentrantCall
  /-- Two transactions overlap in time: "refuse" (I10). Raised by `fetch`. SAFE. -/
  | overlappingTransactions
  /-- What was presented is no transaction: a SEND with fewer payload bytes than its word says (R68). Raised by `fetch`. SAFE. -/
  | notATransaction (e : DecodeError)
  deriving DecidableEq, Repr

/-- The block, the parameters of the instance, and what its environment has supplied and seen. -/
structure State where
  /-- The parameters of the instance (00_scope.md R5). No step writes them (log entry 1). -/
  params : Params
  /-- RECEIVING (10_state.md R21): inside a frame. -/
  receiving : Bool
  /-- NIB_VALID (R22): a high nibble waits for its low nibble. -/
  nibValid : Bool
  /-- NIB (R22): that high nibble. -/
  nib : Nibble
  /-- LEN_VALID (R23): the length byte of the frame is known. -/
  lenValid : Bool
  /-- EXP_LEN (R23): the length byte. -/
  expLen : Byte
  /-- BYTES_READ (R24): payload bytes assembled so far. -/
  bytesRead : Byte
  /-- CKSUM (R25): running sum of the decoded bytes. -/
  cksum : Byte
  /-- RXBUF (R26): the payload being assembled. -/
  rxBuf : Memory
  /-- ACK_STATE (R27). -/
  ackState : AckState
  /-- TXBUF (R28): the bytes of the last frame sent. -/
  txBuf : Memory
  /-- TX_LEN (R28): how many they are. -/
  txLen : Byte
  /-- ATTEMPTS (R29): transmissions of that frame. -/
  attempts : Byte
  /-- LAST_SENT_AT (R30): TIME of the last byte of the last frame sent, below 2^TIME_W. -/
  lastSentAt : Nat
  /-- The model's own: the environment's events the block has not taken yet, next first (log entry 3). -/
  pending : List Event
  /-- The model's own: the TIME input as the current transaction sampled it (R7). -/
  time : Nat
  /-- The model's own: the sink's answers to the next `Emit` calls, then Ok (R72). -/
  sink : List Answer
  /-- The model's own: the consumer's answer to a `Deliver` call (R72). -/
  consumer : Answer
  /-- The model's own: what the environment has seen, oldest first (R34). -/
  trace : List Output
  deriving DecidableEq, Repr

/-- An instance with the given parameters right after RESET (70_reset_and_hazards.md R280), nothing presented yet. -/
def State.resetWith (p : Params) : State :=
  { params := p
    receiving := false
    nibValid := false
    nib := 0
    lenValid := false
    expLen := 0
    bytesRead := 0
    cksum := 0
    rxBuf := []
    ackState := .idle
    txBuf := []
    txLen := 0
    attempts := 0
    lastSentAt := 0
    pending := []
    time := 0
    sink := []
    consumer := .returns .ok
    trace := [] }

/-- The machine right after reset, at the reference parameters of R5 (log entry 1). -/
def State.reset : State := State.resetWith Params.reference

end Sys2Proof.Machine
end

