-- ==== Sys2Proof/Machine/Flags.lean ====
section
/-! DEFINITION. The block's one condition, ACK_STATE (10_state.md R33), and the response window read with it: when a response
is recorded (41_receive.md R102, R103), the elapsed time (42_ready_to_send.md R141), what READY reports (R140). -/

namespace Sys2Proof.Machine

/-- Whether an ACK or NAK outside a frame is recorded (R102): a frame is outstanding, or the parameter accepts any. -/
def acceptsResponse (s : State) : Bool := decide (s.ackState = .unset) || s.params.acceptUnsolicited

/-- `Elapsed(now)` (R141): (now - LAST_SENT_AT) mod 2^TIME_W, the subtraction over the integers (00_scope.md R6). -/
def elapsed (pr : Params) (now last : Nat) : Nat := (((now : Int) - (last : Int)) % (pr.timeMod : Int)).toNat

/-- The TIME input as a transaction samples it: TIME_W bits (R68). -/
def sampleTime (pr : Params) (now : Nat) : Nat := now % pr.timeMod

/-- Whether the response window has expired: Elapsed(now) >= T_TIMEOUT (R140). -/
def windowExpired (s : State) : Bool := decide (s.params.tTimeout ≤ elapsed s.params s.time s.lastSentAt)

/-- What READY reports (R140). -/
def readyStatus (s : State) : Status :=
  match s.ackState with
  | .idle => .ok
  | .ack => .ack
  | .nak => .nak
  | .unset => if windowExpired s then .timeout else .wait

/-- ATTEMPTS after one more transmission: min(255, ATTEMPTS + 1) (R164). -/
def nextAttempts (a : Byte) : Byte := BitVec.ofNat 8 (min 255 (a.toNat + 1))

end Sys2Proof.Machine
end

