-- ==== Sys2Proof/Machine/Operands.lean ====
section
/-! DEFINITION. The operand forms: hex digits and pairs (30_encoding.md R61 to R64), sums modulo 256 (00_scope.md R6), and
the frame of a payload (R65, 43_transmit.md R160). -/

namespace Sys2Proof.Machine

/-- `HexVal(c)` (R61): the value of a digit in either case; 0 for every other byte (R62, lenient decoding). -/
def hexVal (c : Byte) : Nibble :=
  if 0x30#8 ≤ c ∧ c ≤ 0x39#8 then (c - 0x30#8).setWidth 4
  else if 0x41#8 ≤ c ∧ c ≤ 0x46#8 then (c - 0x37#8).setWidth 4
  else if 0x61#8 ≤ c ∧ c ≤ 0x66#8 then (c - 0x57#8).setWidth 4
  else 0

/-- The value of a content pair (R63): the first nibble is the high one. -/
def pairValue (high low : Nibble) : Byte := (high.setWidth 8 <<< 4) ||| low.setWidth 8

/-- `HexDigit(x)` (R64): the upper-case digit. -/
def hexDigit (x : Nibble) : Byte :=
  if x ≤ 9#4 then 0x30#8 + x.setWidth 8 else 0x37#8 + x.setWidth 8

/-- `HexPair(v)` (R64): the digits of v, the high nibble's first. -/
def hexPair (v : Byte) : List Byte := [hexDigit (v.extractLsb' 4 4), hexDigit (v.extractLsb' 0 4)]

/-- The sum of bytes modulo 256 (R6, `+8`), starting from `c`. -/
def addBytes (c : Byte) : List Byte → Byte
  | [] => c
  | b :: bs => addBytes (c + b) bs

/-- The length byte of a payload: "L = n + 1", it counts itself (R65). -/
def lengthByte (p : List Byte) : Byte := BitVec.ofNat 8 (p.length + 1)

/-- The checksum byte of a payload: length byte plus payload, modulo 256 (R65). -/
def checksumByte (p : List Byte) : Byte := addBytes (lengthByte p) p

/-- The decoded bytes of the frame of a payload: length, payload, checksum (R65). -/
def frameBytes (p : List Byte) : List Byte := lengthByte p :: (p ++ [checksumByte p])

/-- The digits of a list of bytes, two for each, in order (R44). -/
def hexPairs : List Byte → List Byte
  | [] => []
  | b :: bs => hexPair b ++ hexPairs bs

/-- The content bytes of the frame of a payload (R65). -/
def frameContent (p : List Byte) : List Byte := hexPairs (frameBytes p)

/-- The frame F a SEND emits: the start marker if TX_EMIT_SOM says so, then the content (R160). -/
def txFrame (pr : Params) (p : List Byte) : List Byte :=
  (if pr.txEmitSom then [0x0A#8] else []) ++ frameContent p

end Sys2Proof.Machine
end

