-- ==== Sys2Proof/Machine/Ops.lean ====
section
/-! DEFINITION. The shared operations: the two buffers (20_memory.md R40 to R42), the calls out of a transaction (00_scope.md
R7), the end of a transaction with its status, which is the block's only form of raising anything (R7, 60_exceptions.md R240),
and reset (70_reset_and_hazards.md R280). -/

namespace Sys2Proof.Machine

/-- One entry of a buffer; none if nothing has written it. -/
def Memory.read : Memory → Nat → Option Byte
  | [], _ => none
  | (a, v) :: rest, i => if a = i then some v else Memory.read rest i

/-- Write one entry, keeping the indices strictly rising. -/
def Memory.write : Memory → Nat → Byte → Memory
  | [], i, v => [(i, v)]
  | (a, u) :: rest, i, v =>
    if i < a then (i, v) :: (a, u) :: rest
    else if i = a then (i, v) :: rest
    else (a, u) :: Memory.write rest i v

/-- Write consecutive entries from index `i` on. -/
def Memory.writeFrom : Memory → Nat → List Byte → Memory
  | m, _, [] => m
  | m, i, v :: vs => Memory.writeFrom (Memory.write m i v) (i + 1) vs

/-- Read `n` consecutive entries from index `i` on; none if one of them is unwritten. -/
def Memory.readFrom (m : Memory) (i : Nat) : Nat → Option (List Byte)
  | 0 => some []
  | n + 1 =>
    match Memory.read m i, Memory.readFrom m (i + 1) n with
    | some v, some vs => some (v :: vs)
    | _, _ => none

/-- The canonical form of a buffer of `size` entries whose lowest index may be `lo`: indices strictly rising, each below the
size. No entry can equal what an unlisted one reads as, since that is no value. -/
def Memory.wfFrom (size : Nat) : Nat → Memory → Bool
  | _, [] => true
  | lo, (a, _) :: rest => decide (lo ≤ a) && decide (a < size) && Memory.wfFrom size (a + 1) rest

/-- The canonical form of a buffer of `size` entries. -/
def Memory.wf (size : Nat) (m : Memory) : Bool := Memory.wfFrom size 0 m

/-- Append to what the environment has seen. -/
def observe (o : Output) (s : State) : State := { s with trace := s.trace ++ [o] }

/-- `return c` (R7): the transaction ends with status `c` on the STATUS port (R68, R243). -/
def returnStatus (c : Status) (s : State) : Host.Outcome State Fault Refusal := .next (observe (.returned c) s)

/-- How a call out of a transaction ends: it returns a status, or the callee re-enters the block (R285). -/
inductive Called where
  | returned (c : Status) (s : State)
  | reentered
  deriving DecidableEq, Repr

/-- `Emit(b)` (R7): offer the byte on the TX port and take the sink's status. -/
def emit (b : Byte) (s : State) : Called :=
  match s.sink with
  | [] => .returned .ok (observe (.offered b .ok) s)
  | .returns c :: rest => .returned c (observe (.offered b c) { s with sink := rest })
  | .reenters :: _ => .reentered

/-- `Emit` each byte in order until one is not taken (43_transmit.md R160, R163, R164). -/
def emitAll : List Byte → State → Called
  | [], s => .returned .ok s
  | b :: bs, s =>
    match emit b s with
    | .returned c s' => if c = .ok then emitAll bs s' else .returned c s'
    | .reentered => .reentered

/-- `Deliver(p)` (R7): hand the payload to the consumer and take its status. -/
def deliver (p : List Byte) (s : State) : Called :=
  match s.consumer with
  | .returns c => .returned c (observe (.delivered p c) s)
  | .reenters => .reentered

/-- The rest of a transaction after a call: it runs if the status is Ok; any other status ends the transaction (41_receive.md
R112, R113, 43_transmit.md R163, R164); re-entry has no meaning (R285). -/
def Called.thenOk (r : Called) (k : State → Host.Outcome State Fault Refusal) : Host.Outcome State Fault Refusal :=
  match r with
  | .returned c s => if c = .ok then k s else returnStatus c s
  | .reentered => .refused .reentrantCall

/-- `return Deliver(..)`: the transaction ends with the call's status, whatever it is (R112, R242). -/
def Called.asStatus (r : Called) : Host.Outcome State Fault Refusal :=
  match r with
  | .returned c s => returnStatus c s
  | .reentered => .refused .reentrantCall

/-- RESET (R280): every register to its reset value; no byte is emitted and nothing delivered. The parameters and what the
environment holds stay. -/
def resetRegisters (s : State) : State :=
  { State.resetWith s.params with
    pending := s.pending, time := s.time, sink := s.sink, consumer := s.consumer, trace := s.trace }

end Sys2Proof.Machine
end

