-- ==== Sys2Proof/Machine/Ready.lean ====
section
/-! DEFINITION. The ready-to-send query (42_ready_to_send.md). -/

namespace Sys2Proof.Machine

/-- CMD_READY (R140): report, and write nothing. W[7:0] is ignored. -/
def execCmdReady (_x : Byte) (s : State) : Host.Outcome State Fault Refusal := returnStatus (readyStatus s) s

end Sys2Proof.Machine
end

