-- ==== Sys2Proof/Machine/Receive.lean ====
section
/-! DEFINITION. The receive transactions (41_receive.md): the in-frame content path R106 to R114 and the meanings of RX_SOM,
RX_ACK, RX_NAK, RX_HEX and RX_OTHER. -/

namespace Sys2Proof.Machine

/-- HighNibble(n) (R107): it waits for its low nibble. -/
def highNibble (n : Nibble) (s : State) : Host.Outcome State Fault Refusal :=
  returnStatus .ok { s with nib := n, nibValid := true }

/-- LengthPair(v) (R109, R110): too big ends the frame; else it seeds the checksum. -/
def lengthPair (v : Byte) (s : State) : Host.Outcome State Fault Refusal :=
  if s.params.maxMessageLength < v.toNat then returnStatus .messageTooBig { s with receiving := false }
  else returnStatus .ok { s with expLen := v, lenValid := true, bytesRead := 0, cksum := v }

/-- PayloadPair(v) (R111): store at RXBUF[BYTES_READ]. An index RXBUF does not have faults (R40). -/
def payloadPair (v : Byte) (s : State) : Host.Outcome State Fault Refusal :=
  if s.bytesRead.toNat < rxBufSize then
    returnStatus .ok { s with
      rxBuf := Memory.write s.rxBuf s.bytesRead.toNat v
      cksum := s.cksum + v
      bytesRead := s.bytesRead + 1 }
  else .fault .rxBufRange

/-- `return Deliver([RXBUF[0], ..., RXBUF[EXP_LEN-2]])` (R112): EXP_LEN - 1 bytes. An unwritten entry faults (I8). -/
def deliverPayload (s : State) : Host.Outcome State Fault Refusal :=
  match Memory.readFrom s.rxBuf 0 (s.expLen.toNat - 1) with
  | some p => (deliver p s).asStatus
  | none => .fault .rxBufUnwritten

/-- ChecksumPair(v) (R112, R113): the frame ends; ACK and delivery on a match, NAK on a mismatch. -/
def checksumPair (v : Byte) (s : State) : Host.Outcome State Fault Refusal :=
  if v = s.cksum then (emit 0x06 { s with receiving := false }).thenOk deliverPayload
  else (emit 0x15 { s with receiving := false }).thenOk (returnStatus .badChecksum)

/-- What a completed pair is (R108), its nibble cleared: length, payload, checksum, or discarded after a zero length byte
(R114). The comparisons are over the integers (00_scope.md R6). -/
def completedPair (v : Byte) (s : State) : Host.Outcome State Fault Refusal :=
  if s.lenValid = false then lengthPair v s
  else if (s.bytesRead.toNat : Int) < (s.expLen.toNat : Int) - 1 then payloadPair v s
  else if (s.bytesRead.toNat : Int) = (s.expLen.toNat : Int) - 1 then checksumPair v s
  else returnStatus .ok s

/-- LowNibble(n) (R108): the pair is complete. -/
def lowNibble (n : Nibble) (s : State) : Host.Outcome State Fault Refusal :=
  completedPair (pairValue s.nib n) { s with nibValid := false, nib := 0 }

/-- RxContent(b) (R106): a content byte inside a frame. -/
def rxContent (b : Byte) (s : State) : Host.Outcome State Fault Refusal :=
  if s.nibValid then lowNibble (hexVal b) s else highNibble (hexVal b) s

/-- An ACK or NAK outside a frame (R102, R103): recorded under the acceptance condition, else Junk. -/
def recordResponse (a : AckState) (s : State) : Host.Outcome State Fault Refusal :=
  if acceptsResponse s then returnStatus .ok { s with ackState := a } else returnStatus .junk s

/-- A byte that is no control byte (R104, R105): content inside a frame, noise outside. -/
def contentOrJunk (b : Byte) (s : State) : Host.Outcome State Fault Refusal :=
  if s.receiving then rxContent b s else returnStatus .junk s

/-- RX_SOM (R101): a frame opens, whatever was in progress. -/
def execRxSom (s : State) : Host.Outcome State Fault Refusal :=
  returnStatus .ok { s with
    receiving := true, nibValid := false, nib := 0, lenValid := false, expLen := 0, bytesRead := 0, cksum := 0 }

/-- RX_ACK (R102). -/
def execRxAck (s : State) : Host.Outcome State Fault Refusal :=
  if s.receiving then rxContent 0x06 s else recordResponse .ack s

/-- RX_NAK (R103). -/
def execRxNak (s : State) : Host.Outcome State Fault Refusal :=
  if s.receiving then rxContent 0x15 s else recordResponse .nak s

/-- RX_HEX (R104). -/
def execRxHex (b : Byte) (s : State) : Host.Outcome State Fault Refusal := contentOrJunk b s

/-- RX_OTHER (R105). -/
def execRxOther (b : Byte) (s : State) : Host.Outcome State Fault Refusal := contentOrJunk b s

end Sys2Proof.Machine
end

