-- ==== Sys2Proof/Machine/Transmit.lean ====
section
/-! DEFINITION. The send and resend transactions (43_transmit.md). -/

namespace Sys2Proof.Machine

/-- The retention after a SEND whose every byte was taken (R162): the frame verbatim, and a new response window. -/
def retainFrame (f : List Byte) (s : State) : State :=
  { s with
    txBuf := Memory.writeFrom s.txBuf 0 f
    txLen := BitVec.ofNat 8 f.length
    ackState := .unset
    lastSentAt := s.time % s.params.timeMod
    attempts := 1 }

/-- What a RESEND writes once every byte was taken (R164, R165): TXBUF and TX_LEN stay. -/
def restartWindow (s : State) : State :=
  { s with
    ackState := .unset
    lastSentAt := s.time % s.params.timeMod
    attempts := nextAttempts s.attempts }

/-- CMD_SEND after its size check: emit the frame, then retain it (R160). A frame TXBUF cannot hold faults (R40). -/
def sendFrame (f : List Byte) (s : State) : Host.Outcome State Fault Refusal :=
  (emitAll f s).thenOk fun t =>
    if f.length ≤ t.params.txBufSize then returnStatus .ok (retainFrame f t) else .fault .txBufRange

/-- CMD_SEND (R160 to R163). -/
def execCmdSend (p : List Byte) (s : State) : Host.Outcome State Fault Refusal :=
  if s.params.maxMessageLength < p.length then returnStatus .messageTooBig s
  else sendFrame (txFrame s.params p) s

/-- CMD_RESEND (R164, R165): replay the retained frame verbatim. W[7:0] is ignored. An unwritten entry faults (I8). -/
def execCmdResend (_x : Byte) (s : State) : Host.Outcome State Fault Refusal :=
  if s.txLen = 0 then returnStatus .ok s
  else
    match Memory.readFrom s.txBuf 0 s.txLen.toNat with
    | some f => (emitAll f s).thenOk fun t => returnStatus .ok (restartWindow t)
    | none => .fault .txBufUnwritten

end Sys2Proof.Machine
end

