-- ==== Sys2Proof/Machine/Dispatch.lean ====
section
/-! DEFINITION. The dispatch of a decoded transaction to its meaning, one arm per constructor of Instr. -/

namespace Sys2Proof.Machine

def exec (i : Instr) (s : State) : Host.Outcome State Fault Refusal :=
  match i with
  | .rxSom => Sys2Proof.Machine.execRxSom s
  | .rxAck => Sys2Proof.Machine.execRxAck s
  | .rxNak => Sys2Proof.Machine.execRxNak s
  | .rxHex b => Sys2Proof.Machine.execRxHex b s
  | .rxOther b => Sys2Proof.Machine.execRxOther b s
  | .cmdReady x => Sys2Proof.Machine.execCmdReady x s
  | .cmdSend p => Sys2Proof.Machine.execCmdSend p s
  | .cmdResend x => Sys2Proof.Machine.execCmdResend x s

end Sys2Proof.Machine
end

