-- ==== Sys2Proof/Machine/Fetch.lean ====
section
/-! DEFINITION. Taking the environment's next event (30_encoding.md R68, R72): the block fetches nothing itself
(10_state.md R32); a transaction is presented to it. -/

namespace Sys2Proof.Machine

/-- What the next event of the environment asks of the block. -/
inductive Fetched where
  /-- Nothing is presented: the block holds its state (60_exceptions.md R249). -/
  | idle
  /-- A directive of R72 or a RESET: no transaction runs. -/
  | directive (s : State)
  /-- A transaction to run, in the state in which it runs. -/
  | run (i : Instr) (s : State)
  /-- The spec gives the event no meaning. -/
  | refuse (r : Refusal)
  deriving DecidableEq, Repr

/-- A transaction presented with its word, payload and TIME (R68). The payload bytes it does not read are gone with it. -/
def present (w : CmdWord) (payload : List Byte) (now : Nat) (s : State) : Fetched :=
  match decode w payload with
  | .ok (i, _) => .run i { s with time := sampleTime s.params now }
  | .error e => .refuse (.notATransaction e)

/-- One event of the environment, taken in the state `s` that no longer lists it. -/
def takeEvent (e : Event) (s : State) : Fetched :=
  match e with
  | .transaction w payload now => present w payload now s
  | .sink answers => .directive { s with sink := answers }
  | .consumer answer => .directive { s with consumer := answer }
  | .reset => .directive (resetRegisters s)
  | .overlapping => .refuse .overlappingTransactions

/-- The next event, or none. -/
def fetch (s : State) : Fetched :=
  match s.pending with
  | [] => .idle
  | e :: rest => takeEvent e { s with pending := rest }

/-- The event that presents the transaction whose bits are `w`, every further bit 0, at TIME `now`. -/
def tableEvent (w now : Nat) : Event :=
  .transaction (BitVec.ofNat 10 w) (zeroPayload (BitVec.ofNat 10 w)) now

end Sys2Proof.Machine
end

