-- ==== Sys2Proof/Machine/Step.lean ====
section
/-! DEFINITION. One step: the environment's next event, and the transaction it presents, whole (20_memory.md R47). -/

namespace Sys2Proof.Machine

/-- One step. With nothing presented the block holds its state (60_exceptions.md R249). -/
def step (s : State) : Host.Outcome State Fault Refusal :=
  match fetch s with
  | .idle => .next s
  | .directive t => .next t
  | .run i t => exec i t
  | .refuse r => .refused r

/-- `s` with the transaction whose bits are `w` presented next, every bit above the table's 0 (log entry 4). -/
def State.withFetchWord (s : State) (_nbits w : Nat) : State :=
  { s with pending := tableEvent w s.time :: s.pending }

end Sys2Proof.Machine
end

