-- ==== Sys2Proof/Machine/HostQueue.lean ====
section
/-! DEFINITION. The reference host agent (45_reference_host_queue.md R200 to R205). "This file does not specify hardware": it is
no part of State (10_state.md R35) and drives the block only by presenting transactions to `step` (log entry 19). -/

namespace Sys2Proof.Machine

/-- An entry of the queue (R200); `completion` names the callback. -/
structure QueueEntry where
  payload : List Byte
  completion : Nat
  attempts : Byte
  deriving DecidableEq, Repr

/-- The host's queue (R200), and the completions it has called, oldest first. -/
structure HostQueue where
  /-- QBUF, QUEUE_CAPACITY = 8 entries. -/
  qbuf : Vector QueueEntry 8
  /-- HEAD, an index modulo 8. -/
  head : Fin 8
  /-- COUNT, 0 to 8. -/
  count : Nat
  /-- IN_FLIGHT. -/
  inFlight : Bool
  /-- The completions called, with their status (R204). -/
  completions : List (Nat × Status)
  deriving DecidableEq, Repr

/-- The host at its start (R200): nothing queued, nothing in flight. -/
def HostQueue.initial : HostQueue :=
  { qbuf := Vector.replicate 8 { payload := [], completion := 0, attempts := 0 }
    head := 0
    count := 0
    inFlight := false
    completions := [] }

/-- The reference host and the block it drives. -/
structure HostSystem where
  queue : HostQueue
  block : State
  deriving DecidableEq, Repr

/-- The outcome of a host call: its result and the system after it, or the stop of the block it drove. -/
abbrev HostOutcome := Host.Outcome (Status × HostSystem) Fault Refusal

/-- The index of the entry `k` places behind the head: (HEAD + k) mod 8. -/
def HostQueue.slot (q : HostQueue) (k : Nat) : Fin 8 := Fin.ofNat 8 (q.head.val + k)

/-- QBUF[HEAD]. -/
def HostQueue.headEntry (q : HostQueue) : QueueEntry := q.qbuf[q.head]

/-- Q_ENQUEUE(payload, completion) (R201). -/
def enqueue (payload : List Byte) (completion : Nat) (q : HostQueue) : Status × HostQueue :=
  if q.count = queueCapacity then (.queueFull, q)
  else (.ok, { q with
    qbuf := q.qbuf.set (q.slot q.count) { payload := payload, completion := completion, attempts := 0 }
    count := q.count + 1 })

/-- Complete(r) (R202): call the head entry's completion and drop the entry. DESIGN CHOICE, log entry 23: the call leaves the queue
as it is. R204 forbids a completion Q_UPDATE and block transactions and leaves open whether it may call Q_ENQUEUE. -/
def complete (r : Status) (q : HostQueue) : HostQueue :=
  { q with
    completions := q.completions ++ [(q.headEntry.completion, r)]
    head := q.slot 1
    count := q.count - 1
    inFlight := false }

/-- Count one more failed transmission of the head entry (R203). -/
def countAttempt (q : HostQueue) : HostQueue :=
  { q with qbuf := q.qbuf.set q.head { q.headEntry with attempts := q.headEntry.attempts + 1 } }

/-- The status of the block's last transaction: the last output it gave (60_exceptions.md R243). -/
def lastStatus (b : State) : Status :=
  match b.trace.getLast? with
  | some (.returned c) => c
  | _ => .ok

/-- Present one transaction to the block at TIME `now`, and go on with its status. DESIGN CHOICE, log entry 24: it goes in front of
the events already pending, so none of them is taken between the transactions of one host call; R49 and R205 leave that open. -/
def issue (i : Instr) (now : Nat) (h : HostSystem) (k : Status → HostSystem → HostOutcome) : HostOutcome :=
  match step { h.block with pending := .transaction (encode i).1 (encode i).2 now :: h.block.pending } with
  | .next b => k (lastStatus b) { h with block := b }
  | .fault f => .fault f
  | .refused r => .refused r

/-- StartHead after CMD_SEND has answered `c` (R202). -/
def headStarted (c : Status) (h : HostSystem) : HostOutcome :=
  if c = .ok then .next (.ok, { h with queue := { h.queue with inFlight := true } })
  else if c = .messageTooBig then .next (.messageTooBig, { h with queue := complete .messageTooBig h.queue })
  else .next (c, h)

/-- StartHead(now) (R202). A payload over 255 bytes "cannot be presented" and is "refused with MessageTooBig all the same"
(30_encoding.md R68). -/
def startHead (now : Nat) (h : HostSystem) : HostOutcome :=
  if 255 < h.queue.headEntry.payload.length then headStarted .messageTooBig h
  else issue (.cmdSend h.queue.headEntry.payload) now h headStarted

/-- Complete(r), and the next entry at once if there is one (R203). -/
def completeAndGoOn (r : Status) (now : Nat) (h : HostSystem) : HostOutcome :=
  let h' := { h with queue := complete r h.queue }
  if 0 < h'.queue.count then startHead now h' else .next (.ok, h')

/-- Q_UPDATE on a NAK or a timeout (R203): retry until MAX_ATTEMPTS transmissions were made. -/
def retryOrGiveUp (r : Status) (now : Nat) (h : HostSystem) : HostOutcome :=
  let h' := { h with queue := countAttempt h.queue }
  if h'.queue.headEntry.attempts.toNat < maxAttempts then issue (.cmdResend 0) now h' fun c h'' => .next (c, h'')
  else completeAndGoOn r now h'

/-- Q_UPDATE once READY has answered (R203). -/
def updateOn (now : Nat) (c : Status) (h : HostSystem) : HostOutcome :=
  match c with
  | .ack => completeAndGoOn .ok now h
  | .nak => retryOrGiveUp .nak now h
  | .timeout => retryOrGiveUp .timeout now h
  | _ => .next (.ok, h)

/-- Q_UPDATE(now) (R203). -/
def queueUpdate (now : Nat) (h : HostSystem) : HostOutcome :=
  if h.queue.count = 0 then .next (.ok, h)
  else if h.queue.inFlight = false then startHead now h
  else issue (.cmdReady 0) now h (updateOn now)

/-- One iteration of the host loop (R205): every byte that has arrived, in order, and then one Q_UPDATE. -/
def hostIteration (now : Nat) : List Byte → HostSystem → HostOutcome
  | [], h => queueUpdate now h
  | b :: bs, h => issue (rxInstr b) now h fun _ h' => hostIteration now bs h'

end Sys2Proof.Machine
end

