-- ==== Sys2Proof/Machine/Observe.lean ====
section
/-! DEFINITION. What the environment sees (10_state.md R34): the byte stream E the sink accepted, the payloads D passed to the
consumer, the statuses, each read off the trace (95_test_vectors.md's notation). -/

namespace Sys2Proof.Machine

/-- The byte the sink took, if this output is one: `s = Ok` means the byte was taken (00_scope.md R7). -/
def Output.acceptedByte : Output → Option Byte
  | .offered b .ok => some b
  | .offered _ _ => none
  | .delivered _ _ => none
  | .returned _ => none

/-- The byte offered on the TX port, if this output is one. -/
def Output.offeredByte : Output → Option Byte
  | .offered b _ => some b
  | .delivered _ _ => none
  | .returned _ => none

/-- The payload handed to the consumer, if this output is one. -/
def Output.payload : Output → Option (List Byte)
  | .offered _ _ => none
  | .delivered p _ => some p
  | .returned _ => none

/-- The status returned, if this output is one. -/
def Output.status : Output → Option Status
  | .offered _ _ => none
  | .delivered _ _ => none
  | .returned c => some c

/-- E: the bytes the sink accepted, in order. -/
def acceptedBytes (t : List Output) : List Byte := t.filterMap Output.acceptedByte

/-- The bytes offered to the sink, taken or not, in order. -/
def offeredBytes (t : List Output) : List Byte := t.filterMap Output.offeredByte

/-- D: the payloads passed to the consumer, in order. -/
def deliveredPayloads (t : List Output) : List (List Byte) := t.filterMap Output.payload

/-- The statuses returned, in order. -/
def returnedStatuses (t : List Output) : List Status := t.filterMap Output.status

end Sys2Proof.Machine
end

