-- ==== Sys2Proof/Safety.lean ====
section
/-! DEFINITION. The terms in which claims are stated: the invariants of 10_state.md R22 to R31, what the sink will answer, a
run of given transactions, and when two states agree. -/

namespace Sys2Proof.Machine

/-- The invariants "which hold between transactions in every reachable state" (10_state.md R31), with those R22, R23, R30 and
R40 to R42 state beside them. -/
structure State.Inv (s : State) : Prop where
  /-- R5: the parameters are ones the spec admits. -/
  params_legal : s.params.Legal
  /-- R31 (a), first half. -/
  exp_len_bounded : s.lenValid = true → s.expLen.toNat ≤ s.params.maxMessageLength
  /-- R31 (a), second half: BYTES_READ ≤ max(0, EXP_LEN - 1). -/
  bytes_read_bounded : s.lenValid = true → s.bytesRead.toNat ≤ s.expLen.toNat - 1
  /-- R23: LEN_VALID = 0 encodes None, and EXP_LEN then holds 0. -/
  no_length_is_zero : s.lenValid = false → s.expLen = 0
  /-- R31 (b), in every state without a length. -/
  no_length_no_bytes : s.lenValid = false → s.bytesRead = 0 ∧ s.cksum = 0
  /-- R22 and R31 (c). -/
  no_nibble_is_zero : s.nibValid = false → s.nib = 0
  /-- A nibble waits only inside a frame: the pair that ends a frame clears it (R108). -/
  nibble_in_frame : s.receiving = false → s.nibValid = false
  /-- R31 (d), and R41: every entry below BYTES_READ was written. -/
  checksum_is_sum : s.lenValid = true → s.receiving = true →
    ∃ p, Memory.readFrom s.rxBuf 0 s.bytesRead.toNat = some p ∧ s.cksum = addBytes s.expLen p
  /-- R31 (f). -/
  idle_nothing_sent : s.ackState = .idle → s.txLen = 0
  /-- R31 (f), the converse. -/
  nothing_sent_idle : s.params.acceptUnsolicited = false → s.txLen = 0 → s.ackState = .idle
  /-- RXBUF has its canonical form and no entry it does not have (R40). -/
  rx_buf_wf : Memory.wf rxBufSize s.rxBuf = true
  /-- TXBUF likewise (R40). -/
  tx_buf_wf : Memory.wf s.params.txBufSize s.txBuf = true
  /-- R28, R42: TXBUF holds the TX_LEN bytes a RESEND reads. -/
  tx_buf_written : ∃ f, Memory.readFrom s.txBuf 0 s.txLen.toNat = some f
  /-- R28: TX_LEN is at most TX_BUF_SIZE. -/
  tx_len_bounded : s.txLen.toNat ≤ s.params.txBufSize
  /-- R30: LAST_SENT_AT has TIME_W bits. -/
  last_sent_bounded : s.lastSentAt < s.params.timeMod

/-- The sink will take the next `n` bytes: none of its next `n` answers is anything but Ok. -/
def SinkTakes (n : Nat) (s : State) : Prop := ∀ a ∈ s.sink.take n, a = .returns .ok

/-- The content byte an instruction carries when it arrives inside a frame (41_receive.md R106): every RX byte but 0x0A. -/
def contentByte : Instr → Option Byte
  | .rxSom => none
  | .rxAck => some 0x06
  | .rxNak => some 0x15
  | .rxHex b => some b
  | .rxOther b => some b
  | .cmdReady _ => none
  | .cmdSend _ => none
  | .cmdResend _ => none

/-- Run transactions one after the other, each whole, stopping at the first stop. -/
def runInstrs : List Instr → State → Host.Outcome State Fault Refusal
  | [], s => .next s
  | i :: is, s =>
    match exec i s with
    | .next t => runInstrs is t
    | .fault f => .fault f
    | .refused r => .refused r

/-- Feed received bytes, one RX transaction each (30_encoding.md R60, R73). -/
def feedBytes (bs : List Byte) (s : State) : Host.Outcome State Fault Refusal := runInstrs (bs.map rxInstr) s

/-- The receive registers of two states agree (R21 to R26). -/
def SameReceive (s t : State) : Prop :=
  t.receiving = s.receiving ∧ t.nibValid = s.nibValid ∧ t.nib = s.nib ∧ t.lenValid = s.lenValid ∧
    t.expLen = s.expLen ∧ t.bytesRead = s.bytesRead ∧ t.cksum = s.cksum

/-- The transmit registers of two states agree (R28 to R30). -/
def SameTransmit (s t : State) : Prop :=
  t.txLen = s.txLen ∧ t.attempts = s.attempts ∧ t.lastSentAt = s.lastSentAt

/-- Every byte of a buffer reads as it did, written or not. -/
def SameBytes (m m' : Memory) : Prop := ∀ a, Memory.read m' a = Memory.read m a

/-- What no transaction writes: the parameters (R5), the events not yet taken, the sampled TIME, the consumer's answer. -/
def SameEnvironment (s t : State) : Prop :=
  t.params = s.params ∧ t.pending = s.pending ∧ t.time = s.time ∧ t.consumer = s.consumer

/-- The RXBUF index a content byte stores to (R111): BYTES_READ, if the byte completes a payload pair. -/
def storedIndex (s : State) : Option Nat :=
  if s.nibValid = true ∧ s.lenValid = true ∧ (s.bytesRead.toNat : Int) < (s.expLen.toNat : Int) - 1
  then some s.bytesRead.toNat else none

/-- Whether the next content byte completes a checksum pair (R108, R112, R113). -/
def AtChecksumPair (s : State) : Prop :=
  s.receiving = true ∧ s.nibValid = true ∧ s.lenValid = true ∧
    (s.bytesRead.toNat : Int) = (s.expLen.toNat : Int) - 1

/-- The byte values of a list of content bytes, two by two (30_encoding.md R63); a single last one is dropped. -/
def decodePairs : List Byte → List Byte
  | h :: l :: rest => pairValue (hexVal h) (hexVal l) :: decodePairs rest
  | _ => []

/-- The outputs of a list of bytes each taken by the sink. -/
def takenBytes (f : List Byte) : List Output := f.map fun b => .offered b .ok

end Sys2Proof.Machine
end

