-- ==== Sys2Proof/Certificates/Slice0/Obligations.lean ====
section
/-! DEFINITION. The statements for the provers. Each docstring names the rule of spec/ it formalises. Every statement is about
every value of the parameters and every answer of the sink and the consumer, which are data of the state (log entries 1, 5, 6). -/

open Sys2Proof Sys2Proof.Machine

/-! ## Reset and invariants -/

/-- R280: RESET, asserted between transactions, gives every register its reset value, emits and delivers nothing; after it
bytes other than 0x0A, ACK and NAK return Junk, READY reports Ok and RESEND does nothing. -/
def Obligations.ResetValuesAndFirstTransactions : Prop :=
  ∀ (s : State) (rest : List Event), s.pending = .reset :: rest → ∃ t, step s = .next t ∧
    (t.receiving = false ∧ t.nibValid = false ∧ t.nib = 0 ∧ t.lenValid = false ∧ t.expLen = 0 ∧ t.bytesRead = 0 ∧
      t.cksum = 0 ∧ t.ackState.code = 3 ∧ t.txLen = 0 ∧ t.attempts = 0 ∧ t.lastSentAt = 0 ∧
      (∀ a, Memory.read t.rxBuf a = none) ∧ (∀ a, Memory.read t.txBuf a = none) ∧ t.trace = s.trace) ∧
    (∀ b, byteClass b = .hex ∨ byteClass b = .other →
      exec (rxInstr b) t = .next { t with trace := t.trace ++ [.returned .junk] }) ∧
    (∀ x, exec (.cmdReady x) t = .next { t with trace := t.trace ++ [.returned .ok] }) ∧
    (∀ x, exec (.cmdResend x) t = .next { t with trace := t.trace ++ [.returned .ok] })

/-- The model's choice (log entries 1, 16, 17): a RESET event leaves the parameters and what the environment holds, and gives
everything else the value State.reset has it at, whatever the parameters are. -/
def Obligations.ResetEventKeepsTheEnvironment : Prop :=
  (∀ (s : State) (rest : List Event), s.pending = .reset :: rest →
    step s = .next { State.resetWith s.params with
      pending := rest, time := s.time, sink := s.sink, consumer := s.consumer, trace := s.trace }) ∧
  State.reset = State.resetWith State.reset.params

/-- The invariant holds right after reset, for every legal parameters. -/
def Obligations.ResetStateHasInvariant : Prop :=
  (∀ p : Params, p.Legal → (State.resetWith p).Inv) ∧ State.reset.Inv

/-- R22, R23, R31: the invariants hold after every step from every state in which they hold. -/
def Obligations.StepKeepsInvariant : Prop :=
  ∀ s t : State, s.Inv → step s = .next t → t.Inv

/-- R41, I8: with the invariant no step faults: no rule reads an unwritten entry or leaves a buffer. -/
def Obligations.NoStepFaultsUnderInvariant : Prop :=
  ∀ s : State, s.Inv → ∀ f, step s ≠ .fault f

/-- The spec's inference in R41: the index of a payload pair "is at most MAX_MESSAGE_LENGTH − 2 ≤ 55". -/
def Obligations.PayloadIndexStaysInsideRxBuf : Prop :=
  ∀ s : State, s.Inv → s.lenValid = true → (s.bytesRead.toNat : Int) < (s.expLen.toNat : Int) - 1 →
    (s.bytesRead.toNat : Int) ≤ (s.params.maxMessageLength : Int) - 2 ∧ s.bytesRead.toNat ≤ 55

/-! ## Encoding -/

/-- R68, R69: decoding an encoded well-formed instruction gives it back, and the payload bytes it does not read
(those are handed back by the model's choice, log entry 14). That a READY or RESEND has its W[7:0] back is the model's choice,
log entry 13. -/
def Obligations.DecodeAfterEncode : Prop :=
  ∀ (i : Instr) (rest : List Byte), i.WellFormed → decode (encode i).1 ((encode i).2 ++ rest) = .ok (i, rest)

/-- R68, R69: what the decoder gives is well-formed and encodes to the word and payload it was read from. For READY and RESEND, whose
W[7:0] R68 calls ignored and canonically 0, that the encoded word is the word read is the model's choice, log entry 13; that the
encoded payload and the bytes not read make up the payload is the model's choice, log entry 14. -/
def Obligations.EncodeAfterDecode : Prop :=
  ∀ (w : CmdWord) (payload : List Byte) (i : Instr) (rest : List Byte), decode w payload = .ok (i, rest) →
    i.WellFormed ∧ (encode i).1 = w ∧ (encode i).2 ++ rest = payload

/-- R70: no word is illegal: a word decodes whenever the payload bytes it asks for are presented, and only a SEND whose
payload is short is turned away (log entry 14). -/
def Obligations.NoWordIsIllegal : Prop :=
  ∀ (w : CmdWord) (payload : List Byte),
    (payloadNeed w ≤ payload.length → ∃ i rest, decode w payload = .ok (i, rest)) ∧
    (payload.length < payloadNeed w → decode w payload = .error (.payloadTooShort (payloadNeed w) payload.length))

/-- R69: the row that decodes a word selects it, and every other row that selects it has fewer mask bits. -/
def Obligations.MostSpecificRowDecodes : Prop :=
  ∀ w : CmdWord, ∃ r ∈ opcodeTable, rowOf w = some r ∧ r.selects w = true ∧
    ∀ r' ∈ opcodeTable, r'.selects w = true → r' = r ∨ r'.maskBits < r.maskBits

/-- R60, R69: a word of kind RX decodes to the transaction of its byte's class. -/
def Obligations.RxWordDecodesByByteClass : Prop :=
  ∀ (b : Byte) (payload : List Byte), decode (wordOf 0 b) payload = .ok (rxInstr b, payload)

/-- R68, R69, R72, words written out from the spec: one of each family of the opcode table. -/
def Obligations.SpecWordsDecode : Prop :=
  decodeTableWord 16 0x00A = some .rxSom ∧ decodeTableWord 16 0x006 = some .rxAck ∧
  decodeTableWord 16 0x015 = some .rxNak ∧ decodeTableWord 16 0x034 = some (.rxHex 0x34) ∧
  decodeTableWord 16 0x066 = some (.rxHex 0x66) ∧ decodeTableWord 16 0x047 = some (.rxOther 0x47) ∧
  decodeTableWord 16 0x100 = some (.cmdReady 0) ∧ decodeTableWord 16 0x202 = some (.cmdSend [0, 0]) ∧
  decodeTableWord 16 0x3FF = some (.cmdResend 0xFF)

/-- R61, R62: the value of every byte as a hex digit. -/
def Obligations.HexDigitValues : Prop :=
  ∀ c : Byte, (hexVal c).toNat =
    if 0x30 ≤ c.toNat ∧ c.toNat ≤ 0x39 then c.toNat - 0x30
    else if 0x41 ≤ c.toNat ∧ c.toNat ≤ 0x46 then c.toNat - 0x37
    else if 0x61 ≤ c.toNat ∧ c.toNat ≤ 0x66 then c.toNat - 0x57
    else 0

/-- R63, R64: the pair value, the digits a send uses, the high one first, and that decoding them gives the byte back
(this last the spec's inference in R64). -/
def Obligations.HexPairsRoundTrip : Prop :=
  (∀ h l : Nibble, (pairValue h l).toNat = 16 * h.toNat + l.toNat) ∧
  (∀ x : Nibble, (hexDigit x).toNat = (if x.toNat ≤ 9 then 0x30 + x.toNat else 0x37 + x.toNat) ∧ hexVal (hexDigit x) = x) ∧
  (∀ v : Byte, ∃ h l : Nibble, h.toNat = v.toNat / 16 ∧ l.toNat = v.toNat % 16 ∧ hexPair v = [hexDigit h, hexDigit l] ∧
    pairValue (hexVal (hexDigit h)) (hexVal (hexDigit l)) = v)

/-- R65: the frame of a payload, as the bytes its content decodes to, and the marker before it. -/
def Obligations.FrameDecodesToLengthPayloadChecksum : Prop :=
  ∀ (pr : Params) (p : List Byte), p.length ≤ 254 →
    ∃ l c : Byte, l.toNat = p.length + 1 ∧ c.toNat = (l.toNat + (p.map BitVec.toNat).sum) % 256 ∧
      frameContent p = (l :: (p ++ [c])).flatMap hexPair ∧ decodePairs (frameContent p) = l :: (p ++ [c]) ∧
      txFrame pr p = (if pr.txEmitSom then [0x0A] else []) ++ frameContent p

/-- R66: 2·(n + 2) content bytes, one more with the marker, and never more than TXBUF holds. -/
def Obligations.FrameLengths : Prop :=
  ∀ (pr : Params) (p : List Byte),
    (frameContent p).length = 2 * (p.length + 2) ∧
    (txFrame pr p).length = 2 * (p.length + 2) + (if pr.txEmitSom then 1 else 0) ∧
    (p.length ≤ pr.maxMessageLength → (txFrame pr p).length ≤ pr.txBufSize)

/-- R27, R71: the numeric codes of ACK_STATE and of the statuses. That each 4-bit code is the code of exactly one status, the codes
9 to 15 those of a status `reserved`, is the model's choice, log entry 22. -/
def Obligations.StatusAndAckStateCodes : Prop :=
  [AckState.unset, .ack, .nak, .idle].map AckState.code = [0, 1, 2, 3] ∧
  [Status.ok, .wait, .ack, .nak, .timeout, .messageTooBig, .badChecksum, .junk, .queueFull].map Status.code =
    [0, 1, 2, 3, 4, 5, 6, 7, 8] ∧
  (∀ c d : Status, c.code = d.code → c = d) ∧ (∀ n : StatusCode, ∃ c : Status, c.code = n) ∧
  (∀ c : Status, 9 ≤ c.code.toNat ↔ ∃ k, c = .reserved k)

/-! ## The step -/

/-- R47, R68: a step takes the transaction presented next and runs exactly it, whole, with TIME sampled. That the transaction is the
first of a list of events is the model's choice, log entry 3; that TIME is reduced modulo 2^TIME_W when sampled is the model's
deduction, log entry 10; that payload bytes the transaction does not read are dropped is the model's choice, log entry 14. -/
def Obligations.StepRunsTheDecodedTransaction : Prop :=
  ∀ (s : State) (w : CmdWord) (payload : List Byte) (now : Nat) (rest : List Event) (i : Instr) (unread : List Byte),
    s.pending = .transaction w payload now :: rest → decode w payload = .ok (i, unread) →
    step s = exec i { s with pending := rest, time := now % 2 ^ s.params.timeW }

/-- R72, R249, I10, R68: what a step does when no transaction runs: nothing presented, a directive, two transactions that
overlap, a SEND short of payload bytes (the last two are refused by name). The form of the events is the model's choice, log
entries 3 to 7 and 14. -/
def Obligations.StepWithoutATransaction : Prop :=
  ∀ s : State,
    (s.pending = [] → step s = .next s) ∧
    (∀ answers rest, s.pending = .sink answers :: rest → step s = .next { s with pending := rest, sink := answers }) ∧
    (∀ answer rest, s.pending = .consumer answer :: rest → step s = .next { s with pending := rest, consumer := answer }) ∧
    (∀ rest, s.pending = .overlapping :: rest → step s = .refused .overlappingTransactions) ∧
    (∀ w payload now rest e, s.pending = .transaction w payload now :: rest → decode w payload = .error e →
      step s = .refused (.notATransaction e))

/-! ## Receive transactions -/

/-- R101: taken in every state; the framing registers are cleared and a frame is open. -/
def Obligations.RxSomOpensAFrame : Prop :=
  ∀ s : State, exec .rxSom s = .next { s with
    receiving := true, nibValid := false, nib := 0, lenValid := false, expLen := 0, bytesRead := 0, cksum := 0
    trace := s.trace ++ [.returned .ok] }

/-- R102: in a frame content of nibble value 0 (R106); outside one recorded under the acceptance condition, else Junk. -/
def Obligations.RxAckRecordsAResponse : Prop :=
  ∀ s : State,
    (s.receiving = true → exec .rxAck s = rxContent 0x06 s ∧ hexVal 0x06 = 0) ∧
    (s.receiving = false → s.ackState = .unset ∨ s.params.acceptUnsolicited = true →
      exec .rxAck s = .next { s with ackState := .ack, trace := s.trace ++ [.returned .ok] }) ∧
    (s.receiving = false → s.ackState ≠ .unset → s.params.acceptUnsolicited = false →
      exec .rxAck s = .next { s with trace := s.trace ++ [.returned .junk] })

/-- R103: as R102, with 0x15 and Nak. -/
def Obligations.RxNakRecordsAResponse : Prop :=
  ∀ s : State,
    (s.receiving = true → exec .rxNak s = rxContent 0x15 s ∧ hexVal 0x15 = 0) ∧
    (s.receiving = false → s.ackState = .unset ∨ s.params.acceptUnsolicited = true →
      exec .rxNak s = .next { s with ackState := .nak, trace := s.trace ++ [.returned .ok] }) ∧
    (s.receiving = false → s.ackState ≠ .unset → s.params.acceptUnsolicited = false →
      exec .rxNak s = .next { s with trace := s.trace ++ [.returned .junk] })

/-- R104, R105: content in a frame, of nibble value 0 if the byte is no digit; Junk outside one. -/
def Obligations.OtherBytesAreContentOrJunk : Prop :=
  ∀ (b : Byte) (s : State), (byteClass b = .other → hexVal b = 0) ∧
    (s.receiving = true → exec (.rxHex b) s = rxContent b s ∧ exec (.rxOther b) s = rxContent b s) ∧
    (s.receiving = false → exec (.rxHex b) s = .next { s with trace := s.trace ++ [.returned .junk] } ∧
      exec (.rxOther b) s = .next { s with trace := s.trace ++ [.returned .junk] })

/-- R107: the first nibble of a pair is stored. -/
def Obligations.HighNibbleIsStored : Prop :=
  ∀ (i : Instr) (b : Byte) (s : State), contentByte i = some b → s.receiving = true → s.nibValid = false →
    exec i s = .next { s with nib := hexVal b, nibValid := true, trace := s.trace ++ [.returned .ok] }

/-- R109: a length byte above the bound ends the frame; no byte is emitted. -/
def Obligations.TooBigLengthEndsTheFrame : Prop :=
  ∀ (i : Instr) (b : Byte) (s : State), contentByte i = some b → s.receiving = true → s.nibValid = true →
    s.lenValid = false → s.params.maxMessageLength < (pairValue s.nib (hexVal b)).toNat →
    exec i s = .next { s with
      nibValid := false, nib := 0, receiving := false, trace := s.trace ++ [.returned .messageTooBig] }

/-- R110: an accepted length byte is recorded and seeds the checksum. -/
def Obligations.LengthPairSeedsTheChecksum : Prop :=
  ∀ (i : Instr) (b : Byte) (s : State), contentByte i = some b → s.receiving = true → s.nibValid = true →
    s.lenValid = false → (pairValue s.nib (hexVal b)).toNat ≤ s.params.maxMessageLength →
    exec i s = .next { s with
      nibValid := false, nib := 0, expLen := pairValue s.nib (hexVal b), lenValid := true, bytesRead := 0
      cksum := pairValue s.nib (hexVal b), trace := s.trace ++ [.returned .ok] }

/-- R111: the byte lands at RXBUF[BYTES_READ] and joins the sum. -/
def Obligations.PayloadPairIsStored : Prop :=
  ∀ (i : Instr) (b : Byte) (s : State), contentByte i = some b → s.receiving = true → s.nibValid = true →
    s.lenValid = true → (s.bytesRead.toNat : Int) < (s.expLen.toNat : Int) - 1 → s.bytesRead.toNat < 56 →
    ∃ t, exec i s = .next t ∧
      t = { s with
        nibValid := false, nib := 0, rxBuf := Memory.write s.rxBuf s.bytesRead.toNat (pairValue s.nib (hexVal b))
        cksum := s.cksum + pairValue s.nib (hexVal b), bytesRead := s.bytesRead + 1
        trace := s.trace ++ [.returned .ok] } ∧
      Memory.read t.rxBuf s.bytesRead.toNat = some (pairValue s.nib (hexVal b)) ∧
      t.cksum.toNat = (s.cksum.toNat + (pairValue s.nib (hexVal b)).toNat) % 256 ∧
      t.bytesRead.toNat = s.bytesRead.toNat + 1

/-- R112: ACK, then delivery; or, if the sink fails on the ACK, its status and no delivery. -/
def Obligations.MatchingChecksumAcksAndDelivers : Prop :=
  ∀ (i : Instr) (b : Byte) (s : State), contentByte i = some b → AtChecksumPair s →
    pairValue s.nib (hexVal b) = s.cksum →
    (∀ c rest, s.sink = .returns c :: rest → c ≠ .ok →
      exec i s = .next { s with
        nibValid := false, nib := 0, receiving := false, sink := rest
        trace := s.trace ++ [.offered 0x06 c, .returned c] }) ∧
    (∀ p c, SinkTakes 1 s → Memory.readFrom s.rxBuf 0 (s.expLen.toNat - 1) = some p → s.consumer = .returns c →
      exec i s = .next { s with
        nibValid := false, nib := 0, receiving := false, sink := s.sink.drop 1
        trace := s.trace ++ [.offered 0x06 .ok, .delivered p c, .returned c] })

/-- R113: NAK and BadChecksum, no delivery; or, if the sink fails on the NAK, its status. -/
def Obligations.MismatchingChecksumNaks : Prop :=
  ∀ (i : Instr) (b : Byte) (s : State), contentByte i = some b → AtChecksumPair s →
    pairValue s.nib (hexVal b) ≠ s.cksum →
    (∀ c rest, s.sink = .returns c :: rest → c ≠ .ok →
      exec i s = .next { s with
        nibValid := false, nib := 0, receiving := false, sink := rest
        trace := s.trace ++ [.offered 0x15 c, .returned c] }) ∧
    (SinkTakes 1 s →
      exec i s = .next { s with
        nibValid := false, nib := 0, receiving := false, sink := s.sink.drop 1
        trace := s.trace ++ [.offered 0x15 .ok, .returned .badChecksum] })

/-- R114: after a zero length byte the frame stays open and consumes every later byte but 0x0A, ACK and NAK included. -/
def Obligations.ZeroLengthFrameIsDeaf : Prop :=
  ∀ (bs : List Byte) (s : State), s.receiving = true → s.lenValid = true → s.expLen = 0 → (∀ b ∈ bs, b ≠ 0x0A) →
    ∃ t n v, feedBytes bs s = .next t ∧
      t = { s with nib := n, nibValid := v, trace := s.trace ++ List.replicate bs.length (.returned .ok) } ∧
      v = (s.nibValid ^^ decide (bs.length % 2 = 1))

/-- R115, R112, R113: an RX transaction puts a byte on the line, or delivers, only from a checksum pair; the byte is 0x06 or
0x15 as the sum matches. -/
def Obligations.OnlyAChecksumPairReplies : Prop :=
  ∀ (i : Instr) (b : Byte) (s t : State), rxByteOf i = some b → exec i s = .next t →
    ∃ ext, t.trace = s.trace ++ ext ∧
      (offeredBytes ext ≠ [] ∨ deliveredPayloads ext ≠ [] →
        contentByte i = some b ∧ AtChecksumPair s ∧
        offeredBytes ext = [if pairValue s.nib (hexVal b) = s.cksum then 0x06 else 0x15] ∧
        (deliveredPayloads ext ≠ [] → pairValue s.nib (hexVal b) = s.cksum))

/-- R31 (d) and (e), R112: what is delivered has EXP_LEN - 1 bytes, and its sum with the length byte is the checksum. -/
def Obligations.DeliveredPayloadMatchesLengthAndChecksum : Prop :=
  ∀ (i : Instr) (s t : State) (p : List Byte), s.Inv → rxByteOf i ≠ none → exec i s = .next t →
    p ∈ deliveredPayloads (t.trace.drop s.trace.length) →
    p.length = s.expLen.toNat - 1 ∧ s.cksum.toNat = (s.expLen.toNat + (p.map BitVec.toNat).sum) % 256

/-- 95_test_vectors.md W5, R104, R105: outside a frame, bytes that are no start marker, ACK or NAK each report Junk, and
nothing else happens. -/
def Obligations.NoiseOutsideAFrameIsJunk : Prop :=
  ∀ (bs : List Byte) (s : State), s.receiving = false → (∀ b ∈ bs, b ≠ 0x0A ∧ b ≠ 0x06 ∧ b ≠ 0x15) →
    feedBytes bs s = .next { s with trace := s.trace ++ List.replicate bs.length (.returned .junk) }

/-- R102, R103: with ACCEPT_UNSOLICITED_RESPONSE = false, "the first response after a send is kept. A second ACK or NAK before
the next send is Junk". -/
def Obligations.FirstResponseIsKept : Prop :=
  ∀ (s t : State) (i j : Instr), s.receiving = false → s.ackState = .unset → s.params.acceptUnsolicited = false →
    (i = .rxAck ∨ i = .rxNak) → (j = .rxAck ∨ j = .rxNak) → exec i s = .next t →
    t.ackState = (if i = .rxAck then .ack else .nak) ∧
    exec j t = .next { t with trace := t.trace ++ [.returned .junk] }

/-! ## READY -/

/-- R140, R141: what READY reports, for every ACK_STATE. -/
def Obligations.ReadyReportsTheResponseState : Prop :=
  ∀ (x : Byte) (s : State),
    (s.ackState = .idle → exec (.cmdReady x) s = .next { s with trace := s.trace ++ [.returned .ok] }) ∧
    (s.ackState = .ack → exec (.cmdReady x) s = .next { s with trace := s.trace ++ [.returned .ack] }) ∧
    (s.ackState = .nak → exec (.cmdReady x) s = .next { s with trace := s.trace ++ [.returned .nak] }) ∧
    (s.ackState = .unset → (s.params.tTimeout : Int) ≤ ((s.time : Int) - (s.lastSentAt : Int)) % 2 ^ s.params.timeW →
      exec (.cmdReady x) s = .next { s with trace := s.trace ++ [.returned .timeout] }) ∧
    (s.ackState = .unset → ((s.time : Int) - (s.lastSentAt : Int)) % 2 ^ s.params.timeW < (s.params.tTimeout : Int) →
      exec (.cmdReady x) s = .next { s with trace := s.trace ++ [.returned .wait] })

/-- R141, R287, R288: a READY presented `d` units after the last send, `d` below 2^TIME_W, reports Timeout exactly when `d` is
at least T_TIMEOUT, wherever TIME wrapped in between. -/
def Obligations.WindowCountsTimeSinceTheLastSend : Prop :=
  ∀ (x : Byte) (s : State) (sent d : Nat), s.ackState = .unset → s.lastSentAt = sent % 2 ^ s.params.timeW →
    s.time = (sent + d) % 2 ^ s.params.timeW → d < 2 ^ s.params.timeW →
    exec (.cmdReady x) s =
      .next { s with trace := s.trace ++ [.returned (if s.params.tTimeout ≤ d then .timeout else .wait)] }

/-- R48: READY writes nothing, and repeated with the same TIME gives the same status. -/
def Obligations.ReadyWritesNothing : Prop :=
  ∀ (x y : Byte) (s t : State), exec (.cmdReady x) s = .next t →
    ∃ c, t = { s with trace := s.trace ++ [.returned c] } ∧
      exec (.cmdReady y) t = .next { t with trace := t.trace ++ [.returned c] }

/-! ## SEND and RESEND -/

/-- R161: a SEND over the bound ends before any `Emit` and writes nothing; at the bound it is accepted. -/
def Obligations.SendSizeIsCheckedFirst : Prop :=
  ∀ (p : List Byte) (s : State),
    (s.params.maxMessageLength < p.length →
      exec (.cmdSend p) s = .next { s with trace := s.trace ++ [.returned .messageTooBig] }) ∧
    (s.params.Legal → p.length = s.params.maxMessageLength → SinkTakes (txFrame s.params p).length s →
      ∃ t, exec (.cmdSend p) s = .next t ∧ t.trace = s.trace ++ takenBytes (txFrame s.params p) ++ [.returned .ok])

/-- R162 (and R160's order): the frame goes out byte by byte and is kept verbatim; ACK_STATE, LAST_SENT_AT and ATTEMPTS start a new
window. No premise on ACK_STATE: a SEND while a frame is outstanding replaces it (R284). -/
def Obligations.SendTransmitsAndRetainsTheFrame : Prop :=
  ∀ (p : List Byte) (s : State), s.params.Legal → p.length ≤ s.params.maxMessageLength →
    SinkTakes (txFrame s.params p).length s →
    ∃ t, exec (.cmdSend p) s = .next t ∧
      t = { s with
        txBuf := t.txBuf, txLen := t.txLen, ackState := .unset, lastSentAt := s.time % 2 ^ s.params.timeW, attempts := 1
        sink := s.sink.drop (txFrame s.params p).length
        trace := s.trace ++ takenBytes (txFrame s.params p) ++ [.returned .ok] } ∧
      t.txLen.toNat = (txFrame s.params p).length ∧
      (∀ k, k < (txFrame s.params p).length → Memory.read t.txBuf k = (txFrame s.params p)[k]?)

/-- R163: the sink fails on byte k: the bytes before it are on the line, none after it is offered, no register changes. -/
def Obligations.SendStopsAtASinkFailure : Prop :=
  ∀ (p : List Byte) (s : State) (k : Nat) (c : Status) (b : Byte) (rest : List Answer),
    p.length ≤ s.params.maxMessageLength → (txFrame s.params p)[k]? = some b → c ≠ .ok →
    s.sink = List.replicate k (.returns .ok) ++ .returns c :: rest →
    exec (.cmdSend p) s = .next { s with
      sink := rest, trace := s.trace ++ takenBytes ((txFrame s.params p).take k) ++ [.offered b c, .returned c] }

/-- R164: with nothing retained a RESEND emits nothing and changes nothing. -/
def Obligations.ResendWithNothingRetained : Prop :=
  ∀ (x : Byte) (s : State), s.txLen = 0 →
    exec (.cmdResend x) s = .next { s with trace := s.trace ++ [.returned .ok] }

/-- R164, R165: the retained bytes go out verbatim, the window restarts, ATTEMPTS counts up to 255. -/
def Obligations.ResendReplaysAndRestartsTheWindow : Prop :=
  ∀ (x : Byte) (s : State) (f : List Byte), s.txLen ≠ 0 → Memory.readFrom s.txBuf 0 s.txLen.toNat = some f →
    SinkTakes f.length s →
    ∃ t, exec (.cmdResend x) s = .next t ∧
      t = { s with
        ackState := .unset, lastSentAt := s.time % 2 ^ s.params.timeW, attempts := t.attempts
        sink := s.sink.drop f.length, trace := s.trace ++ takenBytes f ++ [.returned .ok] } ∧
      t.attempts.toNat = min 255 (s.attempts.toNat + 1)

/-- R164, R163: the sink fails on byte k of a RESEND: no register changes. -/
def Obligations.ResendStopsAtASinkFailure : Prop :=
  ∀ (x : Byte) (s : State) (f : List Byte) (k : Nat) (c : Status) (b : Byte) (rest : List Answer),
    Memory.readFrom s.txBuf 0 s.txLen.toNat = some f → f[k]? = some b → c ≠ .ok →
    s.sink = List.replicate k (.returns .ok) ++ .returns c :: rest →
    exec (.cmdResend x) s = .next { s with
      sink := rest, trace := s.trace ++ takenBytes (f.take k) ++ [.offered b c, .returned c] }

/-- R51, R42: a RESEND replays the bytes of the most recent successful SEND, whatever other transactions ran in between, a
SEND that did not end in Ok among them. -/
def Obligations.ResendReplaysTheLastSend : Prop :=
  ∀ (p : List Byte) (s t u : State) (between : List Instr) (x : Byte), s.params.Legal →
    p.length ≤ s.params.maxMessageLength → SinkTakes (txFrame s.params p).length s →
    exec (.cmdSend p) s = .next t →
    (∀ before q after a b, between = before ++ .cmdSend q :: after → runInstrs before t = .next a →
      exec (.cmdSend q) a = .next b → b.trace.getLast? ≠ some (.returned .ok)) →
    runInstrs between t = .next u → SinkTakes (txFrame s.params p).length u →
    ∃ v, exec (.cmdResend x) u = .next v ∧
      v.trace = u.trace ++ takenBytes (txFrame s.params p) ++ [.returned .ok]

/-- The spec's inference R166: the content bytes of a SEND, fed after a 0x0A into a second instance with the same bound whose consumer and sink
answer Ok, end in exactly one delivery of the payload, one 0x06, and Ok on the last byte. -/
def Obligations.SentFrameRoundTrips : Prop :=
  ∀ (p : List Byte) (s t r : State) (content : List Byte), s.params.Legal → p.length + 1 ≤ s.params.maxMessageLength →
    SinkTakes (txFrame s.params p).length s → exec (.cmdSend p) s = .next t →
    acceptedBytes (t.trace.drop s.trace.length) = (if s.params.txEmitSom then [0x0A] else []) ++ content →
    r.params.maxMessageLength = s.params.maxMessageLength → SinkTakes 1 r → r.consumer = .returns .ok →
    ∃ u ext, feedBytes (0x0A :: content) r = .next u ∧ u.trace = r.trace ++ ext ∧
      deliveredPayloads ext = [p] ∧ offeredBytes ext = [0x06] ∧ acceptedBytes ext = [0x06] ∧
      returnedStatuses ext = List.replicate (content.length + 1) .ok

/-- R285, I9: re-entry from the sink or from the consumer is refused by name. -/
def Obligations.ReentryIsRefused : Prop :=
  (∀ (p : List Byte) (s : State) (k : Nat) (rest : List Answer), p.length ≤ s.params.maxMessageLength →
    k < (txFrame s.params p).length → s.sink = List.replicate k (.returns .ok) ++ .reenters :: rest →
    exec (.cmdSend p) s = .refused .reentrantCall) ∧
  (∀ (x : Byte) (s : State) (f : List Byte) (k : Nat) (rest : List Answer),
    Memory.readFrom s.txBuf 0 s.txLen.toNat = some f → k < f.length →
    s.sink = List.replicate k (.returns .ok) ++ .reenters :: rest →
    exec (.cmdResend x) s = .refused .reentrantCall) ∧
  (∀ (i : Instr) (b : Byte) (s : State) (rest : List Answer), contentByte i = some b → AtChecksumPair s →
    s.sink = .reenters :: rest → exec i s = .refused .reentrantCall) ∧
  (∀ (i : Instr) (b : Byte) (s : State) (p : List Byte), contentByte i = some b → AtChecksumPair s →
    pairValue s.nib (hexVal b) = s.cksum → SinkTakes 1 s →
    Memory.readFrom s.rxBuf 0 (s.expLen.toNat - 1) = some p → s.consumer = .reenters →
    exec i s = .refused .reentrantCall)

/-! ## Frames -/

/-- What RX_SOM leaves unchanged (R101): everything but the seven framing registers and the status. -/
def Obligations.RxSomFrame : Prop :=
  ∀ s t : State, exec .rxSom s = .next t →
    t.ackState = s.ackState ∧ SameTransmit s t ∧ SameBytes s.rxBuf t.rxBuf ∧ SameBytes s.txBuf t.txBuf ∧
    SameEnvironment s t ∧ t.sink = s.sink

/-- What RX_ACK, RX_NAK, RX_HEX and RX_OTHER leave unchanged outside a frame (R102 to R105): everything but ACK_STATE, which
only RX_ACK and RX_NAK may write, and the status. -/
def Obligations.OutOfFrameByteFrame : Prop :=
  ∀ (i : Instr) (b : Byte) (s t : State), contentByte i = some b → s.receiving = false → exec i s = .next t →
    SameReceive s t ∧ SameTransmit s t ∧ SameBytes s.rxBuf t.rxBuf ∧ SameBytes s.txBuf t.txBuf ∧
    SameEnvironment s t ∧ t.sink = s.sink ∧
    (i ≠ .rxAck → i ≠ .rxNak → t.ackState = s.ackState) ∧
    (t.trace = s.trace ++ [.returned .ok] ∨ t.trace = s.trace ++ [.returned .junk])

/-- What a content byte leaves unchanged inside a frame (R106 to R114): ACK_STATE, the transmit side, every RXBUF entry but the
one a payload pair stores to, and of the sink's answers all but at most the first. -/
def Obligations.ContentByteFrame : Prop :=
  ∀ (i : Instr) (b : Byte) (s t : State), contentByte i = some b → s.receiving = true → exec i s = .next t →
    t.ackState = s.ackState ∧ SameTransmit s t ∧ SameBytes s.txBuf t.txBuf ∧ SameEnvironment s t ∧
    (t.sink = s.sink ∨ (AtChecksumPair s ∧ t.sink = s.sink.drop 1)) ∧
    (∀ a, storedIndex s ≠ some a → Memory.read t.rxBuf a = Memory.read s.rxBuf a)

/-- What the commands leave unchanged (R140, R160, R164): "No receive register is written", nor RXBUF (R284). -/
def Obligations.CommandsLeaveTheReceiveSide : Prop :=
  ∀ (i : Instr) (s t : State), rxByteOf i = none → exec i s = .next t →
    SameReceive s t ∧ SameBytes s.rxBuf t.rxBuf ∧ SameEnvironment s t

/-- What the commands leave unchanged of the transmit side: READY all of it; SEND every TXBUF entry past the frame it stores at
0 .. |F| - 1, and all of it where it does not return Ok; RESEND TXBUF and TX_LEN (R140, R160 to R164). -/
def Obligations.CommandsTransmitFrame : Prop :=
  ∀ (s t : State),
    (∀ x, exec (.cmdReady x) s = .next t →
      SameTransmit s t ∧ t.ackState = s.ackState ∧ SameBytes s.txBuf t.txBuf ∧ t.sink = s.sink) ∧
    (∀ p, exec (.cmdSend p) s = .next t →
      (∀ a, (txFrame s.params p).length ≤ a → Memory.read t.txBuf a = Memory.read s.txBuf a) ∧
      (t.trace.getLast? ≠ some (.returned .ok) →
        SameTransmit s t ∧ t.ackState = s.ackState ∧ SameBytes s.txBuf t.txBuf)) ∧
    (∀ x, exec (.cmdResend x) s = .next t →
      SameBytes s.txBuf t.txBuf ∧ t.txLen = s.txLen ∧
      (t.trace.getLast? ≠ some (.returned .ok) → SameTransmit s t ∧ t.ackState = s.ackState))

/-! ## The whole machine -/

/-- R243, R240: every transaction that goes on ends with exactly one status, after everything it emits and delivers. -/
def Obligations.ExactlyOneStatusPerTransaction : Prop :=
  ∀ (i : Instr) (s t : State), exec i s = .next t →
    ∃ calls c, t.trace = s.trace ++ calls ++ [.returned c] ∧ returnedStatuses calls = []

/-- R70, R240: with the invariant, and a sink and a consumer that do not re-enter the block, every transaction completes:
malformed input is never refused. -/
def Obligations.EveryTransactionCompletes : Prop :=
  ∀ (i : Instr) (s : State), s.Inv → .reenters ∉ s.sink → s.consumer ≠ .reenters → ∃ t, exec i s = .next t

/-- R285: a transaction is refused only for re-entry, and only where the environment re-enters. -/
def Obligations.OnlyReentryIsRefused : Prop :=
  ∀ (i : Instr) (s : State) (r : Refusal), exec i s = .refused r →
    r = .reentrantCall ∧ (.reenters ∈ s.sink ∨ s.consumer = .reenters)

/-- R71, R241: with a sink and a consumer that answer Ok, the status of a transaction is one of the codes 0 to 7: the block
itself returns neither QueueFull nor a reserved code. -/
def Obligations.BlockReturnsNoReservedStatus : Prop :=
  ∀ (i : Instr) (s t : State), (∀ a ∈ s.sink, a = .returns .ok) → s.consumer = .returns .ok → exec i s = .next t →
    ∃ c, t.trace.getLast? = some (.returned c) ∧ c.code.toNat ≤ 7

/-- R68, R292: an RX transaction does not depend on TIME. -/
def Obligations.RxDoesNotDependOnTime : Prop :=
  ∀ (i : Instr) (s t : State) (n : Nat), rxByteOf i ≠ none → exec i s = .next t →
    exec i { s with time := n } = .next { t with time := n }

/-- R68: READY and RESEND ignore W[7:0]. -/
def Obligations.LowByteOfReadyAndResendIsIgnored : Prop :=
  ∀ (x y : Byte) (s : State), exec (.cmdReady x) s = exec (.cmdReady y) s ∧ exec (.cmdResend x) s = exec (.cmdResend y) s

/-! ## The reference host agent (no hardware: 45_reference_host_queue.md; log entry 19) -/

/-- R201: a full queue turns an entry away and does not change; any other takes it at the tail. -/
def Obligations.EnqueueOnAFullQueueChangesNothing : Prop :=
  ∀ (payload : List Byte) (completion : Nat) (q : HostQueue),
    (q.count = 8 → enqueue payload completion q = (.queueFull, q)) ∧
    (q.count < 8 → ∃ q', enqueue payload completion q = (.ok, q') ∧ q'.count = q.count + 1 ∧ q'.head = q.head ∧
      q'.inFlight = q.inFlight ∧ q'.completions = q.completions ∧
      q'.qbuf[q.slot q.count] = { payload := payload, completion := completion, attempts := 0 } ∧
      ∀ k : Fin 8, k ≠ q.slot q.count → q'.qbuf[k] = q.qbuf[k])

/-- R203, and the spec's inference R204: one Q_UPDATE completes entries from the head on, in order, each once,
and COUNT falls by their number. The host, its completions as numbers and the list of those called are the model's, log entry 19;
that a completion does not enqueue, so that COUNT only falls, is the model's choice, log entry 23; that the transactions of one
Q_UPDATE run with no other event between them is the model's choice, log entry 24. -/
def Obligations.UpdateCompletesEntriesInOrder : Prop :=
  ∀ (now : Nat) (h h' : HostSystem) (c : Status), queueUpdate now h = .next (c, h') →
    ∃ done, h'.queue.completions = h.queue.completions ++ done ∧ h'.queue.count + done.length = h.queue.count ∧
      done.map Prod.fst = (List.range done.length).map fun k => h.queue.qbuf[h.queue.slot k].completion
end

