-- ==== Sys2Proof/Laws/Memory.lean ====
section
/-! SUPPORT. The laws of the two buffers (20_memory.md R40 to R42): a read after a write, and that every operation keeps the
canonical form. -/

namespace Sys2Proof.Machine

@[simp] theorem Memory.read_nil (i : Nat) : Memory.read [] i = none := rfl

/-- A read of the entry just written gives the byte written. -/
@[simp] theorem Memory.read_write_same (m : Memory) (i : Nat) (v : Byte) :
    Memory.read (Memory.write m i v) i = some v := by
  induction m with
  | nil => simp [Memory.write, Memory.read]
  | cons c m ih =>
    obtain ⟨a, u⟩ := c
    unfold Memory.write
    split
    · simp [Memory.read]
    · split
      · simp [Memory.read]
      · have : a ≠ i := by omega
        simpa [Memory.read, this] using ih

/-- A write leaves every other entry as it was. -/
theorem Memory.read_write_other (m : Memory) {i j : Nat} (v : Byte) (h : j ≠ i) :
    Memory.read (Memory.write m i v) j = Memory.read m j := by
  induction m with
  | nil => simp [Memory.write, Memory.read, h.symm]
  | cons c m ih =>
    obtain ⟨a, u⟩ := c
    unfold Memory.write
    split
    · simp [Memory.read, h.symm]
    · split
      · rename_i hia
        subst hia
        simp [Memory.read, h.symm]
      · simp only [Memory.read, ih]

/-- Consecutive writes from `i` on leave every entry below `i`, and every one past the last byte, as it was. -/
theorem Memory.read_writeFrom_outside (m : Memory) (i : Nat) (vs : List Byte) {j : Nat}
    (h : j < i ∨ i + vs.length ≤ j) : Memory.read (Memory.writeFrom m i vs) j = Memory.read m j := by
  induction vs generalizing m i with
  | nil => rfl
  | cons v vs ih =>
    rw [List.length_cons] at h
    rw [Memory.writeFrom, ih _ _ (by omega), Memory.read_write_other _ _ (by omega)]

/-- Consecutive writes from `i` on store byte `k` at `i + k`. -/
theorem Memory.read_writeFrom_inside (m : Memory) (i : Nat) (vs : List Byte) {k : Nat} (h : k < vs.length) :
    Memory.read (Memory.writeFrom m i vs) (i + k) = vs[k]? := by
  induction vs generalizing m i k with
  | nil => simp at h
  | cons v vs ih =>
    rw [Memory.writeFrom]
    cases k with
    | zero => rw [Memory.read_writeFrom_outside _ _ _ (by omega)]; simp
    | succ k =>
      have := ih (Memory.write m i v) (i + 1) (k := k) (by simpa using h)
      rw [show i + (k + 1) = i + 1 + k by omega, this]
      rfl

/-- A range reads as the list whose every byte its entries hold. -/
theorem Memory.readFrom_eq_some_iff (m : Memory) (i n : Nat) (p : List Byte) :
    Memory.readFrom m i n = some p ↔ p.length = n ∧ ∀ k, k < n → Memory.read m (i + k) = p[k]? := by
  induction n generalizing i p with
  | zero => cases p <;> simp [Memory.readFrom]
  | succ n ih =>
    constructor
    · intro h
      rw [Memory.readFrom] at h
      split at h
      · rename_i v vs hv hvs
        obtain rfl : v :: vs = p := by simpa using h
        obtain ⟨hl, hk⟩ := (ih _ _).1 hvs
        refine ⟨by simpa using hl, fun k hk' => ?_⟩
        cases k with
        | zero => simpa using hv
        | succ k =>
          have := hk k (by omega)
          rw [show i + (k + 1) = i + 1 + k by omega, this]
          rfl
      · simp at h
    · rintro ⟨hl, hk⟩
      cases p with
      | nil => simp at hl
      | cons v vs =>
        have h0 := hk 0 (by omega)
        have hrest : Memory.readFrom m (i + 1) n = some vs :=
          (ih _ _).2 ⟨by simpa using hl, fun k hkn => by
            have := hk (k + 1) (by omega)
            rw [show i + 1 + k = i + (k + 1) by omega, this]
            rfl⟩
        rw [Memory.readFrom, hrest]
        have h0' : Memory.read m i = some v := by simpa using h0
        rw [h0']

/-- A range that reads as a list of the range's length. -/
theorem Memory.readFrom_length {m : Memory} {i n : Nat} {p : List Byte} (h : Memory.readFrom m i n = some p) :
    p.length = n := ((Memory.readFrom_eq_some_iff m i n p).1 h).1

/-- The bytes written from `i` on read back as written. -/
theorem Memory.readFrom_writeFrom (m : Memory) (i : Nat) (vs : List Byte) :
    Memory.readFrom (Memory.writeFrom m i vs) i vs.length = some vs :=
  (Memory.readFrom_eq_some_iff _ _ _ _).2 ⟨rfl, fun _ h => Memory.read_writeFrom_inside m i vs h⟩

/-- A range is read alike from two buffers whose entries in the range read alike. -/
theorem Memory.readFrom_congr {m m' : Memory} {i n : Nat}
    (h : ∀ k, k < n → Memory.read m' (i + k) = Memory.read m (i + k)) :
    Memory.readFrom m' i n = Memory.readFrom m i n := by
  ext p
  rw [Memory.readFrom_eq_some_iff, Memory.readFrom_eq_some_iff]
  exact and_congr_right fun _ => forall₂_congr fun k hk => by rw [h k hk]

/-- The empty buffer has the canonical form. -/
theorem Memory.wf_nil (size : Nat) : Memory.wf size [] = true := rfl

theorem Memory.wfFrom_write {size lo : Nat} {m : Memory} {i : Nat} (v : Byte) (hm : Memory.wfFrom size lo m = true)
    (hlo : lo ≤ i) (hi : i < size) : Memory.wfFrom size lo (Memory.write m i v) = true := by
  induction m generalizing lo with
  | nil => simp [Memory.write, Memory.wfFrom, hlo, hi]
  | cons c m ih =>
    obtain ⟨a, u⟩ := c
    simp only [Memory.wfFrom, Bool.and_eq_true, decide_eq_true_eq] at hm
    unfold Memory.write
    split
    · simp [Memory.wfFrom, hlo, hi, hm, Nat.succ_le_of_lt ‹_›]
    · split
      · rename_i hia
        subst hia
        simp [Memory.wfFrom, hlo, hi, hm]
      · have := ih hm.2 (by omega)
        simp [Memory.wfFrom, hm, this]

/-- Writing an entry the buffer has keeps the canonical form. -/
theorem Memory.wf_write {size : Nat} {m : Memory} {i : Nat} (v : Byte) (hm : Memory.wf size m = true)
    (hi : i < size) : Memory.wf size (Memory.write m i v) = true :=
  Memory.wfFrom_write v hm (Nat.zero_le _) hi

/-- Writing a range the buffer has keeps the canonical form. -/
theorem Memory.wf_writeFrom {size : Nat} {m : Memory} {i : Nat} (vs : List Byte) (hm : Memory.wf size m = true)
    (h : i + vs.length ≤ size) : Memory.wf size (Memory.writeFrom m i vs) = true := by
  induction vs generalizing m i with
  | nil => exact hm
  | cons v vs ih =>
    rw [List.length_cons] at h
    exact ih (Memory.wf_write v hm (by omega)) (by omega)

/-- Right after reset both buffers have the canonical form. -/
theorem State.resetWith_wf (p : Params) :
    Memory.wf rxBufSize (State.resetWith p).rxBuf = true ∧ Memory.wf p.txBufSize (State.resetWith p).txBuf = true :=
  ⟨rfl, rfl⟩

end Sys2Proof.Machine
end

