-- ==== Sys2Proof/Laws/State.lean ====
section
/-! SUPPORT. One lemma per field for each named update of State (observe, retainFrame, restartWindow, resetRegisters), so that
no later proof unfolds one. -/

namespace Sys2Proof.Machine

/-! ### observe: only the trace grows -/

@[simp] theorem observe_params (o : Output) (s : State) : (observe o s).params = s.params := rfl
@[simp] theorem observe_receiving (o : Output) (s : State) : (observe o s).receiving = s.receiving := rfl
@[simp] theorem observe_nibValid (o : Output) (s : State) : (observe o s).nibValid = s.nibValid := rfl
@[simp] theorem observe_nib (o : Output) (s : State) : (observe o s).nib = s.nib := rfl
@[simp] theorem observe_lenValid (o : Output) (s : State) : (observe o s).lenValid = s.lenValid := rfl
@[simp] theorem observe_expLen (o : Output) (s : State) : (observe o s).expLen = s.expLen := rfl
@[simp] theorem observe_bytesRead (o : Output) (s : State) : (observe o s).bytesRead = s.bytesRead := rfl
@[simp] theorem observe_cksum (o : Output) (s : State) : (observe o s).cksum = s.cksum := rfl
@[simp] theorem observe_rxBuf (o : Output) (s : State) : (observe o s).rxBuf = s.rxBuf := rfl
@[simp] theorem observe_ackState (o : Output) (s : State) : (observe o s).ackState = s.ackState := rfl
@[simp] theorem observe_txBuf (o : Output) (s : State) : (observe o s).txBuf = s.txBuf := rfl
@[simp] theorem observe_txLen (o : Output) (s : State) : (observe o s).txLen = s.txLen := rfl
@[simp] theorem observe_attempts (o : Output) (s : State) : (observe o s).attempts = s.attempts := rfl
@[simp] theorem observe_lastSentAt (o : Output) (s : State) : (observe o s).lastSentAt = s.lastSentAt := rfl
@[simp] theorem observe_pending (o : Output) (s : State) : (observe o s).pending = s.pending := rfl
@[simp] theorem observe_time (o : Output) (s : State) : (observe o s).time = s.time := rfl
@[simp] theorem observe_sink (o : Output) (s : State) : (observe o s).sink = s.sink := rfl
@[simp] theorem observe_consumer (o : Output) (s : State) : (observe o s).consumer = s.consumer := rfl
@[simp] theorem observe_trace (o : Output) (s : State) : (observe o s).trace = s.trace ++ [o] := rfl

/-! ### retainFrame (R162) -/

@[simp] theorem retainFrame_params (f : List Byte) (s : State) : (retainFrame f s).params = s.params := rfl
@[simp] theorem retainFrame_receiving (f : List Byte) (s : State) : (retainFrame f s).receiving = s.receiving := rfl
@[simp] theorem retainFrame_nibValid (f : List Byte) (s : State) : (retainFrame f s).nibValid = s.nibValid := rfl
@[simp] theorem retainFrame_nib (f : List Byte) (s : State) : (retainFrame f s).nib = s.nib := rfl
@[simp] theorem retainFrame_lenValid (f : List Byte) (s : State) : (retainFrame f s).lenValid = s.lenValid := rfl
@[simp] theorem retainFrame_expLen (f : List Byte) (s : State) : (retainFrame f s).expLen = s.expLen := rfl
@[simp] theorem retainFrame_bytesRead (f : List Byte) (s : State) : (retainFrame f s).bytesRead = s.bytesRead := rfl
@[simp] theorem retainFrame_cksum (f : List Byte) (s : State) : (retainFrame f s).cksum = s.cksum := rfl
@[simp] theorem retainFrame_rxBuf (f : List Byte) (s : State) : (retainFrame f s).rxBuf = s.rxBuf := rfl
@[simp] theorem retainFrame_ackState (f : List Byte) (s : State) : (retainFrame f s).ackState = .unset := rfl
@[simp] theorem retainFrame_txBuf (f : List Byte) (s : State) : (retainFrame f s).txBuf = Memory.writeFrom s.txBuf 0 f := rfl
@[simp] theorem retainFrame_txLen (f : List Byte) (s : State) : (retainFrame f s).txLen = BitVec.ofNat 8 f.length := rfl
@[simp] theorem retainFrame_attempts (f : List Byte) (s : State) : (retainFrame f s).attempts = 1 := rfl
@[simp] theorem retainFrame_lastSentAt (f : List Byte) (s : State) : (retainFrame f s).lastSentAt = s.time % s.params.timeMod := rfl
@[simp] theorem retainFrame_pending (f : List Byte) (s : State) : (retainFrame f s).pending = s.pending := rfl
@[simp] theorem retainFrame_time (f : List Byte) (s : State) : (retainFrame f s).time = s.time := rfl
@[simp] theorem retainFrame_sink (f : List Byte) (s : State) : (retainFrame f s).sink = s.sink := rfl
@[simp] theorem retainFrame_consumer (f : List Byte) (s : State) : (retainFrame f s).consumer = s.consumer := rfl
@[simp] theorem retainFrame_trace (f : List Byte) (s : State) : (retainFrame f s).trace = s.trace := rfl

/-! ### restartWindow (R164, R165) -/

@[simp] theorem restartWindow_params (s : State) : (restartWindow s).params = s.params := rfl
@[simp] theorem restartWindow_receiving (s : State) : (restartWindow s).receiving = s.receiving := rfl
@[simp] theorem restartWindow_nibValid (s : State) : (restartWindow s).nibValid = s.nibValid := rfl
@[simp] theorem restartWindow_nib (s : State) : (restartWindow s).nib = s.nib := rfl
@[simp] theorem restartWindow_lenValid (s : State) : (restartWindow s).lenValid = s.lenValid := rfl
@[simp] theorem restartWindow_expLen (s : State) : (restartWindow s).expLen = s.expLen := rfl
@[simp] theorem restartWindow_bytesRead (s : State) : (restartWindow s).bytesRead = s.bytesRead := rfl
@[simp] theorem restartWindow_cksum (s : State) : (restartWindow s).cksum = s.cksum := rfl
@[simp] theorem restartWindow_rxBuf (s : State) : (restartWindow s).rxBuf = s.rxBuf := rfl
@[simp] theorem restartWindow_ackState (s : State) : (restartWindow s).ackState = .unset := rfl
@[simp] theorem restartWindow_txBuf (s : State) : (restartWindow s).txBuf = s.txBuf := rfl
@[simp] theorem restartWindow_txLen (s : State) : (restartWindow s).txLen = s.txLen := rfl
@[simp] theorem restartWindow_attempts (s : State) : (restartWindow s).attempts = nextAttempts s.attempts := rfl
@[simp] theorem restartWindow_lastSentAt (s : State) : (restartWindow s).lastSentAt = s.time % s.params.timeMod := rfl
@[simp] theorem restartWindow_pending (s : State) : (restartWindow s).pending = s.pending := rfl
@[simp] theorem restartWindow_time (s : State) : (restartWindow s).time = s.time := rfl
@[simp] theorem restartWindow_sink (s : State) : (restartWindow s).sink = s.sink := rfl
@[simp] theorem restartWindow_consumer (s : State) : (restartWindow s).consumer = s.consumer := rfl
@[simp] theorem restartWindow_trace (s : State) : (restartWindow s).trace = s.trace := rfl

/-! ### resetRegisters (R280) -/

@[simp] theorem resetRegisters_params (s : State) : (resetRegisters s).params = s.params := rfl
@[simp] theorem resetRegisters_receiving (s : State) : (resetRegisters s).receiving = false := rfl
@[simp] theorem resetRegisters_nibValid (s : State) : (resetRegisters s).nibValid = false := rfl
@[simp] theorem resetRegisters_nib (s : State) : (resetRegisters s).nib = 0 := rfl
@[simp] theorem resetRegisters_lenValid (s : State) : (resetRegisters s).lenValid = false := rfl
@[simp] theorem resetRegisters_expLen (s : State) : (resetRegisters s).expLen = 0 := rfl
@[simp] theorem resetRegisters_bytesRead (s : State) : (resetRegisters s).bytesRead = 0 := rfl
@[simp] theorem resetRegisters_cksum (s : State) : (resetRegisters s).cksum = 0 := rfl
@[simp] theorem resetRegisters_rxBuf (s : State) : (resetRegisters s).rxBuf = [] := rfl
@[simp] theorem resetRegisters_ackState (s : State) : (resetRegisters s).ackState = .idle := rfl
@[simp] theorem resetRegisters_txBuf (s : State) : (resetRegisters s).txBuf = [] := rfl
@[simp] theorem resetRegisters_txLen (s : State) : (resetRegisters s).txLen = 0 := rfl
@[simp] theorem resetRegisters_attempts (s : State) : (resetRegisters s).attempts = 0 := rfl
@[simp] theorem resetRegisters_lastSentAt (s : State) : (resetRegisters s).lastSentAt = 0 := rfl
@[simp] theorem resetRegisters_pending (s : State) : (resetRegisters s).pending = s.pending := rfl
@[simp] theorem resetRegisters_time (s : State) : (resetRegisters s).time = s.time := rfl
@[simp] theorem resetRegisters_sink (s : State) : (resetRegisters s).sink = s.sink := rfl
@[simp] theorem resetRegisters_consumer (s : State) : (resetRegisters s).consumer = s.consumer := rfl
@[simp] theorem resetRegisters_trace (s : State) : (resetRegisters s).trace = s.trace := rfl

end Sys2Proof.Machine
end

