-- ==== Sys2Proof/Laws/Ops.lean ====
section
/-! SUPPORT. What each shared operation can do, said once: the calls out of a transaction and the two ways one goes on from them. -/

namespace Sys2Proof.Machine

@[simp] theorem takenBytes_nil : takenBytes [] = [] := rfl

@[simp] theorem takenBytes_cons (b : Byte) (bs : List Byte) :
    takenBytes (b :: bs) = .offered b .ok :: takenBytes bs := rfl

/-- Emitting to a sink that takes the byte. -/
theorem emit_takes (b : Byte) {s : State} (h : SinkTakes 1 s) :
    emit b s = .returned .ok { s with sink := s.sink.drop 1, trace := s.trace ++ [.offered b .ok] } := by
  obtain hs | ⟨a, rest, hs⟩ : s.sink = [] ∨ ∃ a rest, s.sink = a :: rest := by cases h : s.sink <;> simp
  · simp only [emit, hs, observe, List.drop_nil]
  · obtain rfl : a = .returns .ok := h a (by simp [hs])
    simp only [emit, hs, observe, List.drop_one, List.tail_cons]

/-- What `emit` does if it returns: the sink and the trace alone change. -/
theorem emit_returned {b : Byte} {s t : State} {c : Status} (h : emit b s = .returned c t) :
    (t = { s with sink := s.sink.drop 1, trace := s.trace ++ [.offered b c] }) ∧
      (c = .ok ∨ ∃ rest, s.sink = .returns c :: rest) := by
  unfold emit at h
  split at h
  · rename_i hs
    obtain ⟨rfl, rfl⟩ : .ok = c ∧ _ = t := by simpa using h
    refine ⟨?_, .inl rfl⟩
    simp only [observe, hs, List.drop_nil]
  · rename_i c' rest hs
    obtain ⟨rfl, rfl⟩ : c' = c ∧ _ = t := by simpa using h
    exact ⟨by simp [observe, hs], .inr ⟨rest, hs⟩⟩
  · simp at h

/-- `emit` does not return exactly when the sink re-enters. -/
theorem emit_reentered {b : Byte} {s : State} (h : emit b s = .reentered) : .reenters ∈ s.sink := by
  unfold emit at h
  split at h <;> simp_all

/-- Emitting a list to a sink that takes it whole. -/
theorem emitAll_takes (f : List Byte) {s : State} (h : SinkTakes f.length s) :
    emitAll f s = .returned .ok
      { s with sink := s.sink.drop f.length, trace := s.trace ++ takenBytes f } := by
  induction f generalizing s with
  | nil => simp [emitAll]
  | cons b f ih =>
    have h1 : SinkTakes 1 s := fun a ha => h a (List.take_subset_take_left _ (by simp) ha)
    have h2 : SinkTakes f.length { s with sink := s.sink.drop 1, trace := s.trace ++ [.offered b .ok] } := by
      intro a ha
      refine h a ?_
      cases hs : s.sink with
      | nil => simp [hs] at ha
      | cons x xs =>
        simp only [hs, List.drop_one, List.tail_cons] at ha
        simp [List.mem_cons, ha]
    simp only [emitAll, emit_takes b h1, if_true, ih h2]
    simp [Nat.add_comm]

/-- Emitting a list whose byte `k` the sink does not take. -/
theorem emitAll_fails {f : List Byte} {s : State} {k : Nat} {b : Byte} {c : Status} {rest : List Answer}
    (hb : f[k]? = some b) (hc : c ≠ .ok) (hs : s.sink = List.replicate k (.returns .ok) ++ .returns c :: rest) :
    emitAll f s = .returned c
      { s with sink := rest, trace := s.trace ++ takenBytes (f.take k) ++ [.offered b c] } := by
  induction f generalizing s k with
  | nil => simp at hb
  | cons x f ih =>
    cases k with
    | zero =>
      obtain rfl : x = b := by simpa using hb
      simp [emitAll, emit, hs, observe, hc]
    | succ k =>
      have he : emit x s = .returned .ok { s with sink := s.sink.drop 1, trace := s.trace ++ [.offered x .ok] } :=
        emit_takes x fun a ha => by simpa [hs, List.replicate_succ] using ha
      rw [emitAll, he]
      simp only [if_true]
      rw [ih (by simpa using hb) (by simp [hs, List.replicate_succ])]
      simp

/-- Emitting a list to a sink that re-enters on byte `k`. -/
theorem emitAll_reenters {f : List Byte} {s : State} {k : Nat} {rest : List Answer}
    (hk : k < f.length) (hs : s.sink = List.replicate k (.returns .ok) ++ .reenters :: rest) :
    emitAll f s = .reentered := by
  induction f generalizing s k with
  | nil => simp at hk
  | cons x f ih =>
    cases k with
    | zero => simp [emitAll, emit, hs]
    | succ k =>
      have he : emit x s = .returned .ok { s with sink := s.sink.drop 1, trace := s.trace ++ [.offered x .ok] } :=
        emit_takes x fun a ha => by simpa [hs, List.replicate_succ] using ha
      rw [emitAll, he]
      simp only [if_true]
      exact ih (by simpa using hk) (by simp [hs, List.replicate_succ])

/-- What `emitAll` does if it returns: the sink and the trace alone change, the trace grows by offers, and the status is Ok
only if every byte was taken. -/
theorem emitAll_returned {f : List Byte} {s t : State} {c : Status} (h : emitAll f s = .returned c t) :
    ∃ ext sk, t = { s with sink := sk, trace := s.trace ++ ext } ∧ sk <:+ s.sink ∧
      (∀ o ∈ ext, ∃ b d, o = .offered b d) ∧ (c = .ok → ext = takenBytes f) ∧
      (c ≠ .ok → .returns c ∈ s.sink) := by
  induction f generalizing s with
  | nil =>
    obtain ⟨rfl, rfl⟩ : .ok = c ∧ s = t := by simpa [emitAll] using h
    exact ⟨[], s.sink, by simp, List.suffix_refl _, by simp, by simp, by simp⟩
  | cons b f ih =>
    rw [emitAll] at h
    split at h
    · rename_i d u he
      obtain ⟨rfl, hd⟩ := emit_returned he
      split at h
      · rename_i hok
        subst hok
        obtain ⟨ext, sk, rfl, hsk, hoff, htk, hbad⟩ := ih h
        refine ⟨.offered b .ok :: ext, sk, by simp, hsk.trans (List.drop_suffix _ _), ?_, fun hc => by simp [htk hc],
          fun hc => List.mem_of_mem_drop (hbad hc)⟩
        intro o ho
        obtain rfl | ho := List.mem_cons.1 ho
        · exact ⟨b, .ok, rfl⟩
        · exact hoff o ho
      · rename_i hne
        obtain ⟨rfl, rfl⟩ : d = c ∧ _ = t := by simpa using h
        obtain hd | ⟨rest, hs⟩ := hd
        · exact absurd hd hne
        · exact ⟨[.offered b d], s.sink.drop 1, by simp, List.drop_suffix _ _, by simp, fun h => absurd h hne,
            fun _ => by simp [hs]⟩
    · simp at h

/-- `emitAll` does not return only if the sink re-enters. -/
theorem emitAll_reentered {f : List Byte} {s : State} (h : emitAll f s = .reentered) : .reenters ∈ s.sink := by
  induction f generalizing s with
  | nil => simp [emitAll] at h
  | cons b f ih =>
    rw [emitAll] at h
    split at h
    · rename_i d u he
      obtain ⟨rfl, -⟩ := emit_returned he
      split at h
      · exact List.mem_of_mem_drop (ih h)
      · simp at h
    · exact emit_reentered ‹_›

/-- What `deliver` does if it returns. -/
theorem deliver_returned {p : List Byte} {s t : State} {c : Status} (h : deliver p s = .returned c t) :
    t = { s with trace := s.trace ++ [.delivered p c] } ∧ s.consumer = .returns c := by
  unfold deliver at h
  split at h
  · obtain ⟨rfl, rfl⟩ : _ = c ∧ _ = t := by simpa using h
    exact ⟨rfl, ‹_›⟩
  · simp at h

@[simp] theorem Called.thenOk_ok (s : State) (k : State → Host.Outcome State Fault Refusal) :
    (Called.returned .ok s).thenOk k = k s := rfl

theorem Called.thenOk_failed {c : Status} (h : c ≠ .ok) (s : State) (k : State → Host.Outcome State Fault Refusal) :
    (Called.returned c s).thenOk k = returnStatus c s := by simp [Called.thenOk, h]

@[simp] theorem Called.thenOk_reentered (k : State → Host.Outcome State Fault Refusal) :
    Called.reentered.thenOk k = .refused .reentrantCall := rfl

@[simp] theorem Called.asStatus_returned (c : Status) (s : State) :
    (Called.returned c s).asStatus = returnStatus c s := rfl

@[simp] theorem Called.asStatus_reentered : Called.reentered.asStatus = .refused .reentrantCall := rfl

/-- A transaction that goes on past a call either failed there, with the call's status, or went on. -/
theorem Called.thenOk_next {r : Called} {k : State → Host.Outcome State Fault Refusal} {t : State}
    (h : r.thenOk k = .next t) :
    (∃ c u, r = .returned c u ∧ c ≠ .ok ∧ t = { u with trace := u.trace ++ [.returned c] }) ∨
      (∃ u, r = .returned .ok u ∧ k u = .next t) := by
  unfold Called.thenOk at h
  split at h
  · rename_i c u
    split at h
    · rename_i hc
      exact .inr ⟨u, by rw [hc], h⟩
    · rename_i hc
      exact .inl ⟨c, u, rfl, hc, by simpa [returnStatus, observe] using h.symm⟩
  · simp at h

@[simp] theorem returnStatus_next (c : Status) (s : State) :
    returnStatus c s = .next { s with trace := s.trace ++ [.returned c] } := rfl

end Sys2Proof.Machine
end

