-- ==== Sys2Proof/Laws/PerInstr.lean ====
section
/-! SUPPORT. What holds of each instruction as syntax, one lemma per constructor: its word carries its kind in W[9:8], and the
word of a well-formed one asks for exactly the payload bytes encoded beside it (30_encoding.md R68). -/

namespace Sys2Proof.Laws.EncodingKind

/-- W[9:8] of each transaction (R68): 00 RX, 01 READY, 10 SEND, 11 RESEND. -/
def kindBits : Instr → BitVec 2
  | .rxSom => 0
  | .rxAck => 0
  | .rxNak => 0
  | .rxHex _ => 0
  | .rxOther _ => 0
  | .cmdReady _ => 1
  | .cmdSend _ => 2
  | .cmdResend _ => 3

/-- The family's statement about one instruction. -/
def Statement (i : Instr) : Prop :=
  kindOf (encode i).1 = kindBits i ∧ (i.WellFormed → payloadNeed (encode i).1 = (encode i).2.length)

/-- The kind of a word is the kind it was made with. -/
theorem kindOf_wordOf (k : BitVec 2) (d : Byte) : kindOf (wordOf k d) = k := by
  revert k d; decide +kernel

/-- The data of a word is the data it was made with. -/
theorem dataOf_wordOf (k : BitVec 2) (d : Byte) : dataOf (wordOf k d) = d := by
  revert k d; decide +kernel

/-- A word of a kind other than SEND asks for no payload. -/
theorem payloadNeed_wordOf {k : BitVec 2} (hk : k ≠ 2#2) (d : Byte) : payloadNeed (wordOf k d) = 0 := by
  simp only [payloadNeed, kindOf_wordOf, if_neg hk]

theorem rxSom : Statement .rxSom := ⟨kindOf_wordOf _ _, fun _ => payloadNeed_wordOf (by decide) _⟩

theorem rxAck : Statement .rxAck := ⟨kindOf_wordOf _ _, fun _ => payloadNeed_wordOf (by decide) _⟩

theorem rxNak : Statement .rxNak := ⟨kindOf_wordOf _ _, fun _ => payloadNeed_wordOf (by decide) _⟩

theorem rxHex (b : Byte) : Statement (.rxHex b) := ⟨kindOf_wordOf _ _, fun _ => payloadNeed_wordOf (by decide) _⟩

theorem rxOther (b : Byte) : Statement (.rxOther b) := ⟨kindOf_wordOf _ _, fun _ => payloadNeed_wordOf (by decide) _⟩

theorem cmdReady (x : Byte) : Statement (.cmdReady x) := ⟨kindOf_wordOf _ _, fun _ => payloadNeed_wordOf (by decide) _⟩

theorem cmdSend (p : List Byte) : Statement (.cmdSend p) := by
  refine ⟨kindOf_wordOf _ _, fun h => ?_⟩
  have hp : p.length ≤ 255 := by simpa [Instr.WellFormed, Instr.check] using h
  show payloadNeed (wordOf 2#2 _) = p.length
  rw [payloadNeed, kindOf_wordOf, dataOf_wordOf, if_pos rfl, BitVec.toNat_ofNat]
  omega

theorem cmdResend (x : Byte) : Statement (.cmdResend x) := ⟨kindOf_wordOf _ _, fun _ => payloadNeed_wordOf (by decide) _⟩

end Sys2Proof.Laws.EncodingKind
end

