-- ==== Sys2Proof/Laws/Receive.lean ====
section
/-! SUPPORT. Everything an RX transaction can do, said once: if it answers a next state, that state is one of the cases below.
Provers cite these instead of unfolding the receive meanings. -/

namespace Sys2Proof.Machine

/-- What a checksum pair appends to the trace (41_receive.md R112, R113). -/
inductive ChecksumOutputs (v : Byte) (s : State) : List Output → Prop
  | sinkFailed (c : Status) : c ≠ .ok → .returns c ∈ s.sink →
      ChecksumOutputs v s [.offered (if v = s.cksum then 0x06 else 0x15) c, .returned c]
  | delivered (p : List Byte) (c : Status) : v = s.cksum → s.consumer = .returns c →
      Memory.readFrom s.rxBuf 0 (s.expLen.toNat - 1) = some p →
      ChecksumOutputs v s [.offered 0x06 .ok, .delivered p c, .returned c]
  | refusedFrame : v ≠ s.cksum → ChecksumOutputs v s [.offered 0x15 .ok, .returned .badChecksum]

/-- What a content byte does inside a frame (R106 to R114). -/
inductive ContentEffect (b : Byte) (s : State) : State → Prop
  | highNibble : s.nibValid = false →
      ContentEffect b s { s with nib := hexVal b, nibValid := true, trace := s.trace ++ [.returned .ok] }
  | tooBig : s.nibValid = true → s.lenValid = false →
      s.params.maxMessageLength < (pairValue s.nib (hexVal b)).toNat →
      ContentEffect b s { s with
        nibValid := false, nib := 0, receiving := false, trace := s.trace ++ [.returned .messageTooBig] }
  | lengthPair : s.nibValid = true → s.lenValid = false →
      (pairValue s.nib (hexVal b)).toNat ≤ s.params.maxMessageLength →
      ContentEffect b s { s with
        nibValid := false, nib := 0, expLen := pairValue s.nib (hexVal b), lenValid := true, bytesRead := 0
        cksum := pairValue s.nib (hexVal b), trace := s.trace ++ [.returned .ok] }
  | payloadPair : s.nibValid = true → s.lenValid = true →
      (s.bytesRead.toNat : Int) < (s.expLen.toNat : Int) - 1 → s.bytesRead.toNat < rxBufSize →
      ContentEffect b s { s with
        nibValid := false, nib := 0, rxBuf := Memory.write s.rxBuf s.bytesRead.toNat (pairValue s.nib (hexVal b))
        cksum := s.cksum + pairValue s.nib (hexVal b), bytesRead := s.bytesRead + 1
        trace := s.trace ++ [.returned .ok] }
  | checksumPair (out : List Output) : s.nibValid = true → s.lenValid = true →
      (s.bytesRead.toNat : Int) = (s.expLen.toNat : Int) - 1 →
      ChecksumOutputs (pairValue s.nib (hexVal b)) s out →
      ContentEffect b s { s with
        nibValid := false, nib := 0, receiving := false, sink := s.sink.drop 1, trace := s.trace ++ out }
  | afterZeroLength : s.nibValid = true → s.lenValid = true →
      ¬ (s.bytesRead.toNat : Int) < (s.expLen.toNat : Int) - 1 →
      (s.bytesRead.toNat : Int) ≠ (s.expLen.toNat : Int) - 1 →
      ContentEffect b s { s with nibValid := false, nib := 0, trace := s.trace ++ [.returned .ok] }

/-- What an RX transaction with byte `b` does (R100 to R105). -/
inductive RxEffect (i : Instr) (b : Byte) (s : State) : State → Prop
  | opened : i = .rxSom → RxEffect i b s { s with
      receiving := true, nibValid := false, nib := 0, lenValid := false, expLen := 0, bytesRead := 0, cksum := 0
      trace := s.trace ++ [.returned .ok] }
  | content (t : State) : contentByte i = some b → s.receiving = true → ContentEffect b s t → RxEffect i b s t
  | recorded (a : AckState) : contentByte i = some b → s.receiving = false →
      (i = .rxAck ∧ a = .ack ∨ i = .rxNak ∧ a = .nak) → acceptsResponse s = true →
      RxEffect i b s { s with ackState := a, trace := s.trace ++ [.returned .ok] }
  | noise : contentByte i = some b → s.receiving = false →
      RxEffect i b s { s with trace := s.trace ++ [.returned .junk] }

/-- Inside a frame every RX byte but 0x0A runs the content path (R100, R106). -/
theorem exec_content {i : Instr} {b : Byte} {s : State} (hc : contentByte i = some b) (hr : s.receiving = true) :
    exec i s = rxContent b s := by
  cases i <;> simp_all [contentByte, exec, execRxAck, execRxNak, execRxHex, execRxOther, contentOrJunk]

/-- A checksum pair that answers a next state. -/
theorem checksumPair_next {v : Byte} {s t : State} (h : checksumPair v s = .next t) :
    ∃ out, ChecksumOutputs v s out ∧
      t = { s with receiving := false, sink := s.sink.drop 1, trace := s.trace ++ out } := by
  unfold checksumPair at h
  split at h <;> rename_i hv <;> obtain ⟨c, u, he, hne, rfl⟩ | ⟨u, he, hk⟩ := Called.thenOk_next h <;>
    obtain ⟨rfl, hh⟩ := emit_returned he
  · obtain hok | ⟨rest, hs⟩ := hh
    · exact absurd hok hne
    · exact ⟨_, .sinkFailed c hne (by simp only at hs; simp [hs]), by simp [hv]⟩
  · unfold deliverPayload at hk
    split at hk
    · rename_i p hp
      unfold Called.asStatus at hk
      split at hk
      · rename_i c u hd
        obtain ⟨rfl, hc⟩ := deliver_returned hd
        obtain rfl : _ = t := by simpa using hk
        exact ⟨_, .delivered p c hv hc hp, by simp⟩
      · simp at hk
    · simp at hk
  · obtain hok | ⟨rest, hs⟩ := hh
    · exact absurd hok hne
    · exact ⟨_, .sinkFailed c hne (by simp only at hs; simp [hs]), by simp [hv]⟩
  · obtain rfl : _ = t := by simpa using hk
    exact ⟨_, .refusedFrame hv, by simp⟩

/-- A content byte that answers a next state. -/
theorem rxContent_next {b : Byte} {s t : State} (h : rxContent b s = .next t) : ContentEffect b s t := by
  unfold rxContent at h
  split at h <;> rename_i hn
  · unfold lowNibble completedPair at h
    split at h <;> rename_i hl
    · unfold lengthPair at h
      split at h <;> rename_i hv <;> obtain rfl : _ = t := by simpa using h
      · exact .tooBig hn hl hv
      · exact .lengthPair hn hl (Nat.not_lt.1 hv)
    · have hl : s.lenValid = true := by simpa using hl
      split at h <;> rename_i hb
      · unfold payloadPair at h
        split at h <;> rename_i hlt
        · obtain rfl : _ = t := by simpa using h
          exact .payloadPair hn hl hb hlt
        · simp at h
      · split at h <;> rename_i hb'
        · obtain ⟨out, ho, rfl⟩ := checksumPair_next h
          exact .checksumPair out hn hl hb' (by cases ho <;> constructor <;> assumption)
        · obtain rfl : _ = t := by simpa using h
          exact .afterZeroLength hn hl hb hb'
  · obtain rfl : _ = t := by simpa [highNibble] using h
    exact .highNibble (by simpa using hn)

/-- An RX transaction that answers a next state. -/
theorem exec_rx_next {i : Instr} {b : Byte} {s t : State} (hb : rxByteOf i = some b) (h : exec i s = .next t) :
    RxEffect i b s t := by
  by_cases hs : i = .rxSom
  · subst hs
    obtain rfl : _ = t := by simpa [exec, execRxSom] using h
    exact .opened rfl
  · have hc : contentByte i = some b := by cases i <;> simp_all [rxByteOf, contentByte]
    cases hr : s.receiving
    · cases i with
      | rxSom => exact absurd rfl hs
      | rxAck =>
        rw [show exec .rxAck s = recordResponse .ack s by simp [exec, execRxAck, hr]] at h
        unfold recordResponse at h
        split at h <;> rename_i ha <;> obtain rfl := Host.Outcome.next.inj h
        · exact .recorded .ack hc hr (.inl ⟨rfl, rfl⟩) ha
        · exact .noise hc hr
      | rxNak =>
        rw [show exec .rxNak s = recordResponse .nak s by simp [exec, execRxNak, hr]] at h
        unfold recordResponse at h
        split at h <;> rename_i ha <;> obtain rfl := Host.Outcome.next.inj h
        · exact .recorded .nak hc hr (.inr ⟨rfl, rfl⟩) ha
        · exact .noise hc hr
      | rxHex b' =>
        rw [show exec (.rxHex b') s = returnStatus .junk s by simp [exec, execRxHex, contentOrJunk, hr]] at h
        obtain rfl := Host.Outcome.next.inj h
        exact .noise hc hr
      | rxOther b' =>
        rw [show exec (.rxOther b') s = returnStatus .junk s by simp [exec, execRxOther, contentOrJunk, hr]] at h
        obtain rfl := Host.Outcome.next.inj h
        exact .noise hc hr
      | cmdReady _ => simp [rxByteOf] at hb
      | cmdSend _ => simp [rxByteOf] at hb
      | cmdResend _ => simp [rxByteOf] at hb
    · exact .content t hc hr (rxContent_next (exec_content hc hr ▸ h))

end Sys2Proof.Machine
end

