-- ==== Sys2Proof/Laws/Transmit.lean ====
section
/-! SUPPORT. Everything a SEND or a RESEND can do, said once: if it answers a next state, that state is one of the cases below. -/

namespace Sys2Proof.Machine

/-- What a SEND of payload `p` does (43_transmit.md R160 to R163). -/
inductive SendEffect (p : List Byte) (s : State) : State → Prop
  | tooBig : s.params.maxMessageLength < p.length →
      SendEffect p s { s with trace := s.trace ++ [.returned .messageTooBig] }
  | sinkFailed (c : Status) (sk : List Answer) (ext : List Output) : p.length ≤ s.params.maxMessageLength → c ≠ .ok →
      .returns c ∈ s.sink → (∀ o ∈ ext, ∃ b d, o = .offered b d) →
      SendEffect p s { s with sink := sk, trace := s.trace ++ ext ++ [.returned c] }
  | sent (sk : List Answer) : p.length ≤ s.params.maxMessageLength →
      (txFrame s.params p).length ≤ s.params.txBufSize →
      SendEffect p s { s with
        txBuf := Memory.writeFrom s.txBuf 0 (txFrame s.params p)
        txLen := BitVec.ofNat 8 (txFrame s.params p).length
        ackState := .unset, lastSentAt := s.time % s.params.timeMod, attempts := 1, sink := sk
        trace := s.trace ++ takenBytes (txFrame s.params p) ++ [.returned .ok] }

/-- What a RESEND does (R164, R165). -/
inductive ResendEffect (s : State) : State → Prop
  | nothingRetained : s.txLen = 0 → ResendEffect s { s with trace := s.trace ++ [.returned .ok] }
  | sinkFailed (c : Status) (sk : List Answer) (ext : List Output) : s.txLen ≠ 0 → c ≠ .ok →
      .returns c ∈ s.sink → (∀ o ∈ ext, ∃ b d, o = .offered b d) →
      ResendEffect s { s with sink := sk, trace := s.trace ++ ext ++ [.returned c] }
  | resent (f : List Byte) (sk : List Answer) : s.txLen ≠ 0 →
      Memory.readFrom s.txBuf 0 s.txLen.toNat = some f →
      ResendEffect s { s with
        ackState := .unset, lastSentAt := s.time % s.params.timeMod, attempts := nextAttempts s.attempts, sink := sk
        trace := s.trace ++ takenBytes f ++ [.returned .ok] }

/-- A SEND that answers a next state. -/
theorem execCmdSend_next {p : List Byte} {s t : State} (h : execCmdSend p s = .next t) : SendEffect p s t := by
  unfold execCmdSend at h
  split at h <;> rename_i hp
  · obtain rfl : _ = t := by simpa using h
    exact .tooBig hp
  · have hp := Nat.not_lt.1 hp
    obtain ⟨c, u, he, hne, rfl⟩ | ⟨u, he, hk⟩ := Called.thenOk_next h <;>
      obtain ⟨ext, sk, rfl, -, hoff, htk, hbad⟩ := emitAll_returned he
    · exact .sinkFailed c sk ext hp hne (hbad hne) hoff
    · obtain rfl := htk rfl
      split at hk <;> rename_i hlen
      · obtain rfl := Host.Outcome.next.inj hk
        exact .sent sk hp hlen
      · simp at hk

/-- A RESEND that answers a next state. -/
theorem execCmdResend_next {x : Byte} {s t : State} (h : execCmdResend x s = .next t) : ResendEffect s t := by
  unfold execCmdResend at h
  split at h <;> rename_i hl
  · obtain rfl : _ = t := by simpa using h
    exact .nothingRetained hl
  · split at h
    · rename_i f hf
      obtain ⟨c, u, he, hne, rfl⟩ | ⟨u, he, hk⟩ := Called.thenOk_next h <;>
        obtain ⟨ext, sk, rfl, -, hoff, htk, hbad⟩ := emitAll_returned he
      · exact .sinkFailed c sk ext hl hne (hbad hne) hoff
      · obtain rfl := htk rfl
        obtain rfl := Host.Outcome.next.inj hk
        exact .resent f sk hl hf
    · simp at h

/-- Two digits for each byte (20_memory.md R44). -/
theorem hexPairs_length (bs : List Byte) : (hexPairs bs).length = 2 * bs.length := by
  induction bs with
  | nil => rfl
  | cons b bs ih => simp [hexPairs, hexPair, ih]; omega

end Sys2Proof.Machine
end

