-- ==== Sys2Proof/Tests/Slice0.lean ====
section
/-! SUPPORT. The model's own tests. Expected results come from the spec: the encodings of 30_encoding.md, the examples of the
rules, the vectors of 95_test_vectors.md (named in each comment). Then one witness for the hypotheses of every obligation. -/

namespace Sys2Proof.Tests

open Sys2Proof.Machine

/-! ## Ill-formed terms are refused -/

/-- 'G' is no hex digit (R61). -/
theorem test_hex_operand_checked : (Instr.rxHex 0x47).check = false := by decide

/-- 0x0A, 0x06, 0x15 and '0' have classes of their own (R60). -/
theorem test_other_operand_checked :
    [0x0A, 0x06, 0x15, 0x30].map (fun b => (Instr.rxOther b).check) = [false, false, false, false] := by decide

/-- "A SEND longer than 255 bytes cannot be presented" (R68). -/
theorem test_send_operand_checked :
    (Instr.cmdSend (List.replicate 256 0)).check = false ∧ (Instr.cmdSend (List.replicate 255 0)).check = true := by
  decide +kernel

/-! ## Words written out from R68, R69 and the table -/

theorem test_decode_rx_som : decodeTableWord 16 0b0000001010 = some .rxSom := by decide
theorem test_decode_rx_ack : decodeTableWord 16 0b0000000110 = some .rxAck := by decide
theorem test_decode_rx_nak : decodeTableWord 16 0b0000010101 = some .rxNak := by decide
theorem test_decode_rx_other : decodeTableWord 16 0b0001000111 = some (.rxOther 0x47) := by decide
theorem test_decode_ready : decodeTableWord 16 0b0110100101 = some (.cmdReady 0xA5) := by decide
theorem test_decode_send : decode 0b1000000010 [0xAB, 0xCD, 0xEF] = .ok (.cmdSend [0xAB, 0xCD], [0xEF]) := by decide
theorem test_decode_resend : decodeTableWord 16 0b1111111111 = some (.cmdResend 0xFF) := by decide

/-- The 22 codes of R61, over all ten RX_HEX rows, and the codes just outside them. -/
theorem test_decode_rx_hex :
    ([0x30, 0x31, 0x32, 0x33, 0x34, 0x35, 0x36, 0x37, 0x38, 0x39, 0x41, 0x42, 0x43, 0x44, 0x45, 0x46,
      0x61, 0x62, 0x63, 0x64, 0x65, 0x66].all fun w => decodeTableWord 16 w == some (.rxHex (BitVec.ofNat 8 w))) = true ∧
    ([0x2F, 0x3A, 0x40, 0x47, 0x60, 0x67, 0xB0].all fun w =>
      decodeTableWord 16 w == some (.rxOther (BitVec.ofNat 8 w))) = true := by decide +kernel

/-- A SEND word asks for its payload (R68). -/
theorem test_short_payload_is_named : decode 0x202 [0x01] = .error (.payloadTooShort 2 1) := by decide

/-! ## One transaction each -/

/-- The next state of an outcome. -/
def nextOf : Host.Outcome State Fault Refusal → Option State
  | .next s => some s
  | .fault _ => none
  | .refused _ => none

/-- The next state of one transaction. -/
def after (i : Instr) (s : State) : Option State := nextOf (exec i s)

/-- Inside a frame, its length pair not begun. -/
def framing : State := { State.reset with receiving := true }

/-- After the frame 0x0A "02020" (W1c): the low digit of the checksum pair comes next. -/
def beforeLastDigit : State :=
  { framing with nibValid := true, lenValid := true, expLen := 2, bytesRead := 1, cksum := 4, rxBuf := [(0, 0x02)] }

/-- After `SEND [0x02] @0` (W1a). -/
def sentTwo : State :=
  { State.reset with
    ackState := .unset, txLen := 6, attempts := 1
    txBuf := [(0, 0x30), (1, 0x32), (2, 0x30), (3, 0x32), (4, 0x30), (5, 0x34)] }

/-- The example of R101: a frame in progress is dropped. -/
theorem test_rx_som_drops_a_frame :
    (after .rxSom { beforeLastDigit with expLen := 4, bytesRead := 2 }).map
      (fun t => (t.receiving, t.nibValid, t.lenValid, t.expLen, t.bytesRead, t.cksum)) =
      some (true, false, false, 0, 0, 0) := by decide

/-- X13: an ACK after a SEND. -/
theorem test_rx_ack_recorded : (after .rxAck sentTwo).map (fun t => (t.ackState, t.trace)) =
    some (.ack, [.returned .ok]) := by decide

/-- X8: inside a frame 0x06 is the nibble 0. -/
theorem test_rx_ack_inside_a_frame : (after .rxAck framing).map (fun t => (t.nibValid, t.nib, t.ackState)) =
    some (true, 0, .idle) := by decide

/-- X14: a NAK after a SEND. -/
theorem test_rx_nak_recorded : (after .rxNak sentTwo).map (fun t => (t.ackState, t.trace)) =
    some (.nak, [.returned .ok]) := by decide

/-- X12: a NAK nobody asked for. -/
theorem test_rx_nak_unsolicited : (after .rxNak State.reset).map (fun t => (t.ackState, t.trace)) =
    some (.idle, [.returned .junk]) := by decide

/-- W1c: the last digit of 0x0A "020204". -/
theorem test_rx_hex_completes_a_frame : (after (.rxHex 0x34) beforeLastDigit).map (fun t => (t.receiving, t.trace)) =
    some (false, [.offered 0x06 .ok, .delivered [0x02] .ok, .returned .ok]) := by decide

/-- X17: the sink refuses the 0x15 after 0x0A "020205". -/
theorem test_rx_hex_sink_fails_on_nak :
    (after (.rxHex 0x35) { beforeLastDigit with sink := [.returns .junk] }).map (fun t => (t.receiving, t.trace)) =
      some (false, [.offered 0x15 .junk, .returned .junk]) := by decide

/-- W3: 't' decodes as 0, so the checksum mismatches. -/
theorem test_rx_other_is_a_zero_nibble : (after (.rxOther 0x74) beforeLastDigit).map (fun t => t.trace) =
    some [.offered 0x15 .ok, .returned .badChecksum] := by decide

/-- W5: 'G' outside a frame. -/
theorem test_rx_other_is_junk : (after (.rxOther 0x47) State.reset).map (fun t => t.trace) =
    some [.returned .junk] := by decide

/-- Q3, Q4: SEND @1000, then READY @5999 and @6000. -/
theorem test_ready_window :
    [5999, 6000].map (fun n => (after (.cmdReady 0) { sentTwo with lastSentAt := 1000, time := n }).map (·.trace)) =
      [some [.returned .wait], some [.returned .timeout]] := by decide

/-- Q6, Q7: SEND @0xFFFFF000, then READY after TIME has wrapped. -/
theorem test_ready_window_wraps :
    [0x387, 0x388].map (fun n => (after (.cmdReady 0) { sentTwo with lastSentAt := 0xFFFFF000, time := n }).map (·.trace)) =
      [some [.returned .wait], some [.returned .timeout]] := by decide

/-- S9: a SEND while a frame is outstanding replaces it. -/
theorem test_send_replaces : (after (.cmdSend [0x03]) { sentTwo with time := 10 }).map
      (fun t => (t.txBuf.map Prod.snd, t.txLen, t.lastSentAt, t.attempts)) =
    some ([0x30, 0x32, 0x30, 0x33, 0x30, 0x35], 6, 10, 1) := by decide

/-- S8: the sink fails on its third call. -/
theorem test_send_sink_fails :
    (after (.cmdSend [0x02]) { State.reset with sink := [.returns .ok, .returns .ok, .returns .junk] }).map
      (fun t => (acceptedBytes t.trace, t.txLen, t.ackState, t.trace.getLast?)) =
    some ([0x30, 0x32], 0, .idle, some (.returned .junk)) := by decide

/-- T2: the retained frame again. -/
theorem test_resend : (after (.cmdResend 0) { sentTwo with time := 5000 }).map
      (fun t => (acceptedBytes t.trace, t.lastSentAt, t.attempts, t.ackState)) =
    some ([0x30, 0x32, 0x30, 0x32, 0x30, 0x34], 5000, 2, .unset) := by decide

/-- T5: ATTEMPTS saturates. -/
theorem test_resend_saturates : (after (.cmdResend 0) { sentTwo with attempts := 255 }).map (fun t => t.attempts) =
    some 255 := by decide

/-- A placed word is the first to run after reset: `SEND` of one zero byte is "020002" on the line (R65). -/
theorem test_with_fetch_word : (nextOf (step (State.reset.withFetchWord 16 0x201))).map (fun t => acceptedBytes t.trace) =
    some [0x30, 0x32, 0x30, 0x30, 0x30, 0x32] := by decide

/-- H1: the ninth entry is turned away. -/
theorem test_queue_full : (enqueue [0x01] 9 { HostQueue.initial with count := 8 }).1 = .queueFull := by decide

/-- P4, step 1: the first Q_UPDATE sends the head entry. -/
theorem test_queue_update_sends :
    (match queueUpdate 0 { queue := (enqueue [0x02] 1 HostQueue.initial).2, block := State.reset } with
      | .next (c, h) => some (c, h.queue.inFlight, acceptedBytes h.block.trace)
      | .fault _ => none
      | .refused _ => none) = some (.ok, true, [0x30, 0x32, 0x30, 0x32, 0x30, 0x34]) := by decide

/-! ## Witnesses: concrete states and operands that meet all the hypotheses of an obligation together, clause by clause -/

/-- A frame in progress while a sent one is outstanding; the digit 'F' is presented next. -/
def busy : State :=
  { sentTwo with
    receiving := true, nibValid := true, nib := 0xF, lenValid := true, expLen := 4, bytesRead := 2, cksum := 7
    rxBuf := [(0, 0x01), (1, 0x02)], pending := [.transaction 0x046 [] 100] }

/-- The largest MAX_MESSAGE_LENGTH R5 admits. -/
def largest : Params := { Params.reference with maxMessageLength := 57 }

/-- The last payload pair of the longest frame: index 55. -/
def lastIndex : State :=
  { State.resetWith largest with
    receiving := true, nibValid := true, lenValid := true, expLen := 57, bytesRead := 55, cksum := 57
    rxBuf := (List.range 55).map fun k => (k, 0) }

/-- Inside a frame whose length byte is 0. -/
def zeroLength : State := { framing with lenValid := true }

/-- The length pair's high digit '3' has arrived. -/
def halfLength : State := { framing with nibValid := true, nib := 3 }

/-- A sink that takes `k` bytes and fails the next with Junk. -/
def failsAfter (k : Nat) (s : State) : State :=
  { s with sink := List.replicate k (.returns .ok) ++ [.returns .junk] }

/-- A sink that takes `k` bytes and then presents a transaction. -/
def reentersAfter (k : Nat) (s : State) : State :=
  { s with sink := List.replicate k (.returns .ok) ++ [.reenters] }

theorem busy_inv : busy.Inv where
  params_legal := by decide
  exp_len_bounded := by decide
  bytes_read_bounded := by decide
  no_length_is_zero := by decide
  no_length_no_bytes := by decide
  no_nibble_is_zero := by decide
  nibble_in_frame := by decide
  checksum_is_sum := fun _ _ => ⟨[0x01, 0x02], by decide, by decide⟩
  idle_nothing_sent := by decide
  nothing_sent_idle := by decide
  rx_buf_wf := by decide
  tx_buf_wf := by decide
  tx_buf_written := ⟨[0x30, 0x32, 0x30, 0x32, 0x30, 0x34], by decide⟩
  tx_len_bounded := by decide
  last_sent_bounded := by decide

theorem lastIndex_inv : lastIndex.Inv where
  params_legal := by decide
  exp_len_bounded := by decide
  bytes_read_bounded := by decide
  no_length_is_zero := by decide
  no_length_no_bytes := by decide
  no_nibble_is_zero := by decide
  nibble_in_frame := by decide
  checksum_is_sum := fun _ _ => ⟨List.replicate 55 0, by decide +kernel, by decide +kernel⟩
  idle_nothing_sent := by decide
  nothing_sent_idle := by decide
  rx_buf_wf := by decide +kernel
  tx_buf_wf := by decide
  tx_buf_written := ⟨[], by decide⟩
  tx_len_bounded := by decide
  last_sent_bounded := by decide

theorem beforeLastDigit_inv : beforeLastDigit.Inv where
  params_legal := by decide
  exp_len_bounded := by decide
  bytes_read_bounded := by decide
  no_length_is_zero := by decide
  no_length_no_bytes := by decide
  no_nibble_is_zero := by decide
  nibble_in_frame := by decide
  checksum_is_sum := fun _ _ => ⟨[0x02], by decide, by decide⟩
  idle_nothing_sent := by decide
  nothing_sent_idle := by decide
  rx_buf_wf := by decide
  tx_buf_wf := by decide
  tx_buf_written := ⟨[], by decide⟩
  tx_len_bounded := by decide
  last_sent_bounded := by decide

theorem beforeLastDigit_atChecksum : AtChecksumPair beforeLastDigit := by unfold AtChecksumPair; decide

theorem witness_ResetValuesAndFirstTransactions :
    { busy with pending := [.reset] }.pending = .reset :: [] ∧ byteClass 0x66 = .hex ∧ byteClass 0xFF = .other := by decide

theorem witness_ResetEventKeepsTheEnvironment : { busy with pending := [.reset] }.pending = .reset :: [] := rfl

theorem witness_ResetStateHasInvariant : { largest with maxMessageLength := 1 }.Legal ∧ largest.Legal := by decide

theorem witness_StepKeepsInvariant : busy.Inv ∧ ∃ t, step busy = .next t := ⟨busy_inv, _, rfl⟩

theorem witness_NoStepFaultsUnderInvariant : busy.Inv ∧ lastIndex.Inv := ⟨busy_inv, lastIndex_inv⟩

theorem witness_PayloadIndexStaysInsideRxBuf : lastIndex.Inv ∧ lastIndex.lenValid = true ∧
    (lastIndex.bytesRead.toNat : Int) < (lastIndex.expLen.toNat : Int) - 1 := ⟨lastIndex_inv, by decide⟩

theorem witness_DecodeAfterEncode : (Instr.cmdSend (List.replicate 255 0xFF)).WellFormed ∧
    (Instr.rxHex 0x66).WellFormed ∧ (Instr.rxOther 0xFF).WellFormed ∧ Instr.rxSom.WellFormed := by decide +kernel

theorem witness_EncodeAfterDecode : decode 0x202 [1, 2, 3] = .ok (.cmdSend [1, 2], [3]) := by decide

theorem witness_NoWordIsIllegal : payloadNeed 0x202 ≤ [(1 : Byte), 2].length ∧ [(1 : Byte)].length < payloadNeed 0x202 := by
  decide

theorem witness_MostSpecificRowDecodes :
    (⟨0x300, 0x000, .rxOther⟩ : OpcodeRow) ∈ opcodeTable ∧ OpcodeRow.selects ⟨0x300, 0x000, .rxOther⟩ 0x00A = true := by decide

theorem witness_FrameDecodesToLengthPayloadChecksum : (List.replicate 254 (0 : Byte)).length ≤ 254 := by decide +kernel

theorem witness_FrameLengths : (List.replicate 57 (0 : Byte)).length ≤ largest.maxMessageLength := by decide

theorem witness_StatusAndAckStateCodes : (Status.reserved 6).code = (Status.reserved 6).code ∧
    9 ≤ (Status.reserved 0).code.toNat := by decide

theorem witness_StepRunsTheDecodedTransaction :
    busy.pending = .transaction 0x046 [] 100 :: [] ∧ decode 0x046 [] = .ok (.rxHex 0x46, []) := by decide

theorem witness_StepWithoutATransaction :
    State.reset.pending = [] ∧
    { busy with pending := [.sink [.returns .junk]] }.pending = .sink [.returns .junk] :: [] ∧
    { busy with pending := [.consumer .reenters] }.pending = .consumer .reenters :: [] ∧
    { busy with pending := [.overlapping] }.pending = .overlapping :: [] ∧
    { busy with pending := [.transaction 0x202 [1] 0] }.pending = .transaction 0x202 [1] 0 :: [] ∧
    decode 0x202 [1] = .error (.payloadTooShort 2 1) := by decide

theorem witness_RxAckRecordsAResponse :
    framing.receiving = true ∧
    (sentTwo.receiving = false ∧ sentTwo.ackState = .unset) ∧
    (State.reset.receiving = false ∧ { State.reset.params with acceptUnsolicited := true }.acceptUnsolicited = true) ∧
    (State.reset.receiving = false ∧ State.reset.ackState ≠ .unset ∧ State.reset.params.acceptUnsolicited = false) := by
  decide

theorem witness_RxNakRecordsAResponse :
    busy.receiving = true ∧
    (sentTwo.receiving = false ∧ (sentTwo.ackState = .unset ∨ sentTwo.params.acceptUnsolicited = true)) ∧
    ({ sentTwo with ackState := .ack }.receiving = false ∧ { sentTwo with ackState := .ack }.ackState ≠ .unset ∧
      { sentTwo with ackState := .ack }.params.acceptUnsolicited = false) := by decide

theorem witness_OtherBytesAreContentOrJunk :
    byteClass 0x47 = .other ∧ framing.receiving = true ∧ State.reset.receiving = false := by decide

theorem witness_HighNibbleIsStored :
    contentByte .rxNak = some 0x15 ∧ framing.receiving = true ∧ framing.nibValid = false := by decide

theorem witness_TooBigLengthEndsTheFrame :
    contentByte (.rxHex 0x39) = some 0x39 ∧ halfLength.receiving = true ∧ halfLength.nibValid = true ∧
    halfLength.lenValid = false ∧
    halfLength.params.maxMessageLength < (pairValue halfLength.nib (hexVal 0x39)).toNat := by decide

theorem witness_LengthPairSeedsTheChecksum :
    contentByte (.rxHex 0x38) = some 0x38 ∧ halfLength.receiving = true ∧ halfLength.nibValid = true ∧
    halfLength.lenValid = false ∧
    (pairValue halfLength.nib (hexVal 0x38)).toNat ≤ halfLength.params.maxMessageLength := by decide

theorem witness_PayloadPairIsStored :
    contentByte (.rxHex 0x30) = some 0x30 ∧ lastIndex.receiving = true ∧ lastIndex.nibValid = true ∧
    lastIndex.lenValid = true ∧ (lastIndex.bytesRead.toNat : Int) < (lastIndex.expLen.toNat : Int) - 1 ∧
    lastIndex.bytesRead.toNat < 56 := by decide

theorem witness_MatchingChecksumAcksAndDelivers :
    contentByte (.rxHex 0x34) = some 0x34 ∧ AtChecksumPair beforeLastDigit ∧
    pairValue beforeLastDigit.nib (hexVal 0x34) = beforeLastDigit.cksum ∧
    ((failsAfter 0 beforeLastDigit).sink = .returns .junk :: [] ∧ Status.junk ≠ .ok) ∧
    (SinkTakes 1 (failsAfter 1 beforeLastDigit) ∧
      Memory.readFrom beforeLastDigit.rxBuf 0 (beforeLastDigit.expLen.toNat - 1) = some [0x02] ∧
      beforeLastDigit.consumer = .returns .ok) :=
  ⟨by decide, beforeLastDigit_atChecksum, by decide, by decide, by unfold SinkTakes; decide, by decide⟩

theorem witness_MismatchingChecksumNaks :
    contentByte (.rxHex 0x35) = some 0x35 ∧ AtChecksumPair beforeLastDigit ∧
    pairValue beforeLastDigit.nib (hexVal 0x35) ≠ beforeLastDigit.cksum ∧
    ((failsAfter 0 beforeLastDigit).sink = .returns .junk :: [] ∧ Status.junk ≠ .ok) ∧
    SinkTakes 1 (failsAfter 1 beforeLastDigit) :=
  ⟨by decide, beforeLastDigit_atChecksum, by decide, by decide, by unfold SinkTakes; decide⟩

theorem witness_ZeroLengthFrameIsDeaf :
    zeroLength.receiving = true ∧ zeroLength.lenValid = true ∧ zeroLength.expLen = 0 ∧
    ∀ b ∈ [(0x06 : Byte), 0x15, 0x30], b ≠ 0x0A := by decide

theorem witness_OnlyAChecksumPairReplies :
    rxByteOf (.rxHex 0x34) = some 0x34 ∧ ∃ t, exec (.rxHex 0x34) beforeLastDigit = .next t ∧
      offeredBytes (t.trace.drop beforeLastDigit.trace.length) ≠ [] := ⟨rfl, _, rfl, by decide⟩

theorem witness_DeliveredPayloadMatchesLengthAndChecksum :
    beforeLastDigit.Inv ∧ rxByteOf (.rxHex 0x34) ≠ none ∧ ∃ t, exec (.rxHex 0x34) beforeLastDigit = .next t ∧
      [0x02] ∈ deliveredPayloads (t.trace.drop beforeLastDigit.trace.length) :=
  ⟨beforeLastDigit_inv, by decide, _, rfl, by decide⟩

theorem witness_NoiseOutsideAFrameIsJunk :
    State.reset.receiving = false ∧ ∀ b ∈ [(0x30 : Byte), 0x00, 0xFF], b ≠ 0x0A ∧ b ≠ 0x06 ∧ b ≠ 0x15 := by decide

theorem witness_FirstResponseIsKept :
    sentTwo.receiving = false ∧ sentTwo.ackState = .unset ∧ sentTwo.params.acceptUnsolicited = false ∧
    (Instr.rxNak = .rxAck ∨ Instr.rxNak = .rxNak) ∧ (Instr.rxAck = .rxAck ∨ Instr.rxAck = .rxNak) ∧
    ∃ t, exec .rxNak sentTwo = .next t := ⟨by decide, by decide, by decide, by decide, by decide, _, rfl⟩

theorem witness_ReadyReportsTheResponseState :
    State.reset.ackState = .idle ∧ { sentTwo with ackState := .ack }.ackState = .ack ∧
    { sentTwo with ackState := .nak }.ackState = .nak ∧
    (sentTwo.ackState = .unset ∧ (sentTwo.params.tTimeout : Int) ≤ ((5000 : Int) - 0) % 2 ^ sentTwo.params.timeW) ∧
    (sentTwo.ackState = .unset ∧ ((4999 : Int) - 0) % 2 ^ sentTwo.params.timeW < (sentTwo.params.tTimeout : Int)) := by
  decide

theorem witness_WindowCountsTimeSinceTheLastSend :
    let s := { sentTwo with lastSentAt := 0xFFFFF000, time := 0x388 }
    s.ackState = .unset ∧ s.lastSentAt = 0xFFFFF000 % 2 ^ s.params.timeW ∧
    s.time = (0xFFFFF000 + 5000) % 2 ^ s.params.timeW ∧ 5000 < 2 ^ s.params.timeW := by decide

theorem witness_ReadyWritesNothing : ∃ t, exec (.cmdReady 0) busy = .next t := ⟨_, rfl⟩

theorem witness_SendSizeIsCheckedFirst :
    State.reset.params.maxMessageLength < (List.replicate 57 (0 : Byte)).length ∧
    (State.reset.params.Legal ∧ (List.replicate 56 (0 : Byte)).length = State.reset.params.maxMessageLength ∧
      SinkTakes (txFrame State.reset.params (List.replicate 56 0)).length State.reset) :=
  ⟨by decide, by decide, by decide, by simp [SinkTakes, State.reset, State.resetWith]⟩

theorem witness_SendTransmitsAndRetainsTheFrame :
    sentTwo.params.Legal ∧ [(0x03 : Byte)].length ≤ sentTwo.params.maxMessageLength ∧
    SinkTakes (txFrame sentTwo.params [0x03]).length (failsAfter 6 sentTwo) :=
  ⟨by decide, by decide, by unfold SinkTakes; decide⟩

theorem witness_SendStopsAtASinkFailure :
    [(0x02 : Byte)].length ≤ State.reset.params.maxMessageLength ∧
    (txFrame State.reset.params [0x02])[5]? = some 0x34 ∧ Status.junk ≠ .ok ∧
    (failsAfter 5 State.reset).sink = List.replicate 5 (.returns .ok) ++ .returns .junk :: [] := by decide

theorem witness_ResendWithNothingRetained : State.reset.txLen = 0 := rfl

theorem witness_ResendReplaysAndRestartsTheWindow :
    sentTwo.txLen ≠ 0 ∧
    Memory.readFrom sentTwo.txBuf 0 sentTwo.txLen.toNat = some [0x30, 0x32, 0x30, 0x32, 0x30, 0x34] ∧
    SinkTakes [(0x30 : Byte), 0x32, 0x30, 0x32, 0x30, 0x34].length (failsAfter 6 sentTwo) :=
  ⟨by decide, by decide, by unfold SinkTakes; decide⟩

theorem witness_ResendStopsAtASinkFailure :
    Memory.readFrom sentTwo.txBuf 0 sentTwo.txLen.toNat = some [0x30, 0x32, 0x30, 0x32, 0x30, 0x34] ∧
    [(0x30 : Byte), 0x32, 0x30, 0x32, 0x30, 0x34][0]? = some 0x30 ∧ Status.junk ≠ .ok ∧
    (failsAfter 0 sentTwo).sink = List.replicate 0 (.returns .ok) ++ .returns .junk :: [] := by decide

/-- Between the SEND and the RESEND: a READY, a SEND that the sink fails on its first byte, and an ACK. -/
theorem witness_ResendReplaysTheLastSend :
    let s := failsAfter 6 State.reset
    s.params.Legal ∧ [(0x02 : Byte)].length ≤ s.params.maxMessageLength ∧
    SinkTakes (txFrame s.params [0x02]).length s ∧ ∃ t u, exec (.cmdSend [0x02]) s = .next t ∧
      (∀ before q later a b, [Instr.cmdReady 0, .cmdSend [0x03], .rxAck] = before ++ .cmdSend q :: later →
        runInstrs before t = .next a → exec (.cmdSend q) a = .next b → b.trace.getLast? ≠ some (.returned .ok)) ∧
      runInstrs [.cmdReady 0, .cmdSend [0x03], .rxAck] t = .next u ∧ SinkTakes (txFrame s.params [0x02]).length u := by
  refine ⟨by decide, by decide, by unfold SinkTakes; decide, _, _, rfl, ?_, rfl, by unfold SinkTakes; decide⟩
  intro before q later a b h ha hb
  rcases before with _ | ⟨x, _ | ⟨y, _ | ⟨z, w⟩⟩⟩
  · simp at h
  · obtain ⟨rfl, rfl, rfl⟩ : Instr.cmdReady 0 = x ∧ [(0x03 : Byte)] = q ∧ [Instr.rxAck] = later := by simpa using h
    obtain rfl := Host.Outcome.next.inj ha
    obtain rfl := Host.Outcome.next.inj hb
    decide
  · simp at h
  · simp at h

theorem witness_SentFrameRoundTrips :
    State.reset.params.Legal ∧ [(0x02 : Byte)].length + 1 ≤ State.reset.params.maxMessageLength ∧
    SinkTakes (txFrame State.reset.params [0x02]).length State.reset ∧
    (∃ t, exec (.cmdSend [0x02]) State.reset = .next t ∧
      acceptedBytes (t.trace.drop State.reset.trace.length) =
        (if State.reset.params.txEmitSom then [0x0A] else []) ++ [0x30, 0x32, 0x30, 0x32, 0x30, 0x34]) ∧
    busy.params.maxMessageLength = State.reset.params.maxMessageLength ∧ SinkTakes 1 busy ∧
    busy.consumer = .returns .ok :=
  ⟨by decide, by decide, by simp [SinkTakes, State.reset, State.resetWith], ⟨_, rfl, by decide⟩, by decide,
    by unfold SinkTakes; decide, by decide⟩

theorem witness_ReentryIsRefused :
    ([(0x02 : Byte)].length ≤ State.reset.params.maxMessageLength ∧ 5 < (txFrame State.reset.params [0x02]).length ∧
      (reentersAfter 5 State.reset).sink = List.replicate 5 (.returns .ok) ++ .reenters :: []) ∧
    (Memory.readFrom sentTwo.txBuf 0 sentTwo.txLen.toNat = some [0x30, 0x32, 0x30, 0x32, 0x30, 0x34] ∧
      0 < [(0x30 : Byte), 0x32, 0x30, 0x32, 0x30, 0x34].length ∧
      (reentersAfter 0 sentTwo).sink = List.replicate 0 (.returns .ok) ++ .reenters :: []) ∧
    (contentByte (.rxHex 0x35) = some 0x35 ∧ AtChecksumPair beforeLastDigit ∧
      (reentersAfter 0 beforeLastDigit).sink = .reenters :: []) ∧
    (contentByte (.rxHex 0x34) = some 0x34 ∧ AtChecksumPair beforeLastDigit ∧
      pairValue beforeLastDigit.nib (hexVal 0x34) = beforeLastDigit.cksum ∧ SinkTakes 1 beforeLastDigit ∧
      Memory.readFrom beforeLastDigit.rxBuf 0 (beforeLastDigit.expLen.toNat - 1) = some [0x02] ∧
      { beforeLastDigit with consumer := .reenters }.consumer = .reenters) :=
  ⟨by decide, by decide, ⟨by decide, beforeLastDigit_atChecksum, by decide⟩,
    ⟨by decide, beforeLastDigit_atChecksum, by decide, by unfold SinkTakes; decide, by decide⟩⟩

theorem witness_RxSomFrame : ∃ t, exec .rxSom busy = .next t := ⟨_, rfl⟩

theorem witness_OutOfFrameByteFrame :
    contentByte .rxAck = some 0x06 ∧ sentTwo.receiving = false ∧ ∃ t, exec .rxAck sentTwo = .next t :=
  ⟨by decide, by decide, _, rfl⟩

theorem witness_ContentByteFrame :
    contentByte (.rxHex 0x46) = some 0x46 ∧ busy.receiving = true ∧ (∃ t, exec (.rxHex 0x46) busy = .next t) ∧
    storedIndex busy = some 2 ∧ storedIndex busy ≠ some 0 := ⟨by decide, by decide, ⟨_, rfl⟩, by decide, by decide⟩

theorem witness_CommandsLeaveTheReceiveSide :
    (rxByteOf (.cmdReady 0) = none ∧ ∃ t, exec (.cmdReady 0) busy = .next t) ∧
    (rxByteOf (.cmdSend [0x03]) = none ∧ ∃ t, exec (.cmdSend [0x03]) busy = .next t) ∧
    (rxByteOf (.cmdResend 0) = none ∧ ∃ t, exec (.cmdResend 0) busy = .next t) :=
  ⟨⟨rfl, _, rfl⟩, ⟨rfl, _, rfl⟩, ⟨rfl, _, rfl⟩⟩

theorem witness_CommandsTransmitFrame :
    (∃ t, exec (.cmdReady 0) busy = .next t) ∧ (∃ t, exec (.cmdSend [0x03]) busy = .next t) ∧
    (txFrame busy.params [0x03]).length ≤ 6 ∧
    (∃ t, exec (.cmdSend [0x03]) (failsAfter 3 busy) = .next t ∧ t.trace.getLast? ≠ some (.returned .ok)) ∧
    (∃ t, exec (.cmdResend 0) busy = .next t) ∧
    (∃ t, exec (.cmdResend 0) (failsAfter 3 busy) = .next t ∧ t.trace.getLast? ≠ some (.returned .ok)) :=
  ⟨⟨_, rfl⟩, ⟨_, rfl⟩, by decide, ⟨_, rfl, by decide⟩, ⟨_, rfl⟩, ⟨_, rfl, by decide⟩⟩

theorem witness_ExactlyOneStatusPerTransaction : ∃ t, exec (.cmdSend [0x03]) busy = .next t := ⟨_, rfl⟩

theorem witness_EveryTransactionCompletes :
    (failsAfter 3 busy).Inv ∧ .reenters ∉ (failsAfter 3 busy).sink ∧ (failsAfter 3 busy).consumer ≠ .reenters :=
  ⟨⟨busy_inv.1, busy_inv.2, busy_inv.3, busy_inv.4, busy_inv.5, busy_inv.6, busy_inv.7, busy_inv.8, busy_inv.9,
    busy_inv.10, busy_inv.11, busy_inv.12, busy_inv.13, busy_inv.14, busy_inv.15⟩, by decide, by decide⟩

theorem witness_OnlyReentryIsRefused :
    exec (.cmdSend [0x03]) (reentersAfter 3 busy) = .refused .reentrantCall := by rfl

theorem witness_BlockReturnsNoReservedStatus :
    let s := { busy with sink := [.returns .ok] }
    (∀ a ∈ s.sink, a = .returns .ok) ∧ s.consumer = .returns .ok ∧ ∃ t, exec (.cmdSend [0x03]) s = .next t :=
  ⟨by decide, by decide, _, rfl⟩

theorem witness_RxDoesNotDependOnTime :
    rxByteOf (.rxHex 0x34) ≠ none ∧ ∃ t, exec (.rxHex 0x34) beforeLastDigit = .next t := ⟨by decide, _, rfl⟩

theorem witness_EnqueueOnAFullQueueChangesNothing :
    { HostQueue.initial with count := 8 }.count = 8 ∧ { HostQueue.initial with count := 7 }.count < 8 ∧
    (0 : Fin 8) ≠ { HostQueue.initial with count := 7 }.slot 7 := by decide

/-- The block reports Ack: the entry in flight completes, and the next one, too long, completes at once (R202, R203). -/
theorem witness_UpdateCompletesEntriesInOrder :
    let q := (enqueue (List.replicate 57 0) 2 (enqueue [0x02] 1 HostQueue.initial).2).2
    ∃ c h, queueUpdate 5 { queue := { q with inFlight := true }, block := { sentTwo with ackState := .ack } } = .next (c, h) ∧
      h.queue.completions = [(1, .ok), (2, .messageTooBig)] := ⟨_, _, rfl, by decide⟩

end Sys2Proof.Tests
end

section
/-! The invariant of the state: reset has it, every step keeps it, and what it says of a delivered payload; and the codes of
10_state.md R27 and 30_encoding.md R71. -/

namespace Sys2Proof.Machine

/-! ### Codes -/

/-- The status with a given 4-bit code (R71; 9 to 15 are the reserved ones). -/
def Status.ofCode (n : StatusCode) : Status :=
  if n = 0 then .ok
  else if n = 1 then .wait
  else if n = 2 then .ack
  else if n = 3 then .nak
  else if n = 4 then .timeout
  else if n = 5 then .messageTooBig
  else if n = 6 then .badChecksum
  else if n = 7 then .junk
  else if n = 8 then .queueFull
  else .reserved (Fin.ofNat 7 (n.toNat - 9))

theorem Status.ofCode_code (c : Status) : Status.ofCode c.code = c := by
  cases c with
  | reserved k => revert k; decide
  | _ => rfl

theorem Status.code_ofCode (n : StatusCode) : (Status.ofCode n).code = n := by
  revert n; decide

theorem Status.code_injective : Function.Injective Status.code :=
  Function.LeftInverse.injective Status.ofCode_code

theorem Status.nine_le_code_iff (c : Status) : 9 ≤ c.code.toNat ↔ ∃ k, c = .reserved k := by
  cases c with
  | reserved k =>
    have hcode : ∀ k : Fin 7, 9 ≤ (Status.reserved k).code.toNat := by decide
    exact iff_of_true (hcode k) ⟨k, rfl⟩
  | _ => exact iff_of_false (by decide) nofun

/-- Settles O17: `Status.ofCode` is the two-sided inverse of `Status.code`. -/
theorem statusAndAckStateCodes : Obligations.StatusAndAckStateCodes :=
  ⟨rfl, rfl, fun _ _ h => Status.code_injective h, fun n => ⟨_, Status.code_ofCode n⟩, Status.nine_le_code_iff⟩

/-! ### Sums modulo 256 -/

theorem addBytes_append (c : Byte) (p q : List Byte) : addBytes c (p ++ q) = addBytes (addBytes c p) q := by
  induction p generalizing c with
  | nil => rfl
  | cons b p ih => exact ih (c + b)

theorem toNat_addBytes (c : Byte) (p : List Byte) :
    (addBytes c p).toNat = (c.toNat + (p.map BitVec.toNat).sum) % 256 := by
  induction p generalizing c with
  | nil => simpa [addBytes] using (Nat.mod_eq_of_lt c.isLt).symm
  | cons b p ih =>
    rw [addBytes, ih, BitVec.toNat_add, List.map_cons, List.sum_cons]
    omega

/-! ### A payload read back after one more byte -/

/-- Writing the entry just past a written range extends what the range reads as (R111). -/
theorem Memory.readFrom_write_next {m : Memory} {i n : Nat} {p : List Byte} (v : Byte)
    (h : Memory.readFrom m i n = some p) :
    Memory.readFrom (Memory.write m (i + n) v) i (n + 1) = some (p ++ [v]) := by
  obtain ⟨hlen, hread⟩ := (Memory.readFrom_eq_some_iff m i n p).1 h
  refine (Memory.readFrom_eq_some_iff _ _ _ _).2 ⟨by simp [hlen], fun k hk => ?_⟩
  obtain rfl | hne := eq_or_ne k n
  · simp [← hlen]
  · have hkn : k < n := by omega
    rw [Memory.read_write_other _ _ (by omega), hread k hkn, List.getElem?_append_left (hlen ▸ hkn)]

/-! ### Sizes -/

theorem timeMod_pos (p : Params) : 0 < p.timeMod := Nat.two_pow_pos _

/-- R66: two digits for each byte of the frame, and the marker if it is sent. -/
theorem txFrame_length (pr : Params) (p : List Byte) :
    (txFrame pr p).length = 2 * (p.length + 2) + (if pr.txEmitSom then 1 else 0) := by
  have hmark : (if pr.txEmitSom then [0x0A#8] else []).length = if pr.txEmitSom then 1 else 0 := by
    split <;> rfl
  rw [txFrame, List.length_append, hmark, frameContent, hexPairs_length]
  simp [frameBytes]
  omega

/-- Every legal TXBUF has at most 119 entries (R5), so TX_LEN's 8 bits hold the length of any frame it holds. -/
theorem toNat_txLen_of_fits {pr : Params} (hp : pr.Legal) {n : Nat} (hn : n ≤ pr.txBufSize) :
    (BitVec.ofNat 8 n).toNat = n := by
  obtain ⟨-, hmax⟩ := hp
  rw [Params.txBufSize] at hn
  exact Nat.mod_eq_of_lt (by omega)

/-! ### Reset -/

theorem State.resetWith_inv {p : Params} (hp : p.Legal) : (State.resetWith p).Inv where
  params_legal := hp
  exp_len_bounded := nofun
  bytes_read_bounded := nofun
  no_length_is_zero _ := rfl
  no_length_no_bytes _ := ⟨rfl, rfl⟩
  no_nibble_is_zero _ := rfl
  nibble_in_frame _ := rfl
  checksum_is_sum := nofun
  idle_nothing_sent _ := rfl
  nothing_sent_idle _ _ := rfl
  rx_buf_wf := (State.resetWith_wf p).1
  tx_buf_wf := (State.resetWith_wf p).2
  tx_buf_written := ⟨[], rfl⟩
  tx_len_bounded := Nat.zero_le _
  last_sent_bounded := timeMod_pos p

/-- Settles O3. -/
theorem resetStateHasInvariant : Obligations.ResetStateHasInvariant :=
  ⟨fun _ hp => State.resetWith_inv hp, State.resetWith_inv (by decide)⟩

theorem resetRegisters_inv {s : State} (hs : s.Inv) : (resetRegisters s).Inv :=
  { State.resetWith_inv hs.params_legal with }

/-! ### Every transaction keeps the invariant -/

/-- The checksum clause of the invariant after one more payload byte (R111). -/
theorem State.Inv.checksum_is_sum_after {s : State} (hs : s.Inv) (hl : s.lenValid = true) (hr : s.receiving = true)
    (v : Byte) :
    ∃ p, Memory.readFrom (Memory.write s.rxBuf s.bytesRead.toNat v) 0 (s.bytesRead.toNat + 1) = some p ∧
      s.cksum + v = addBytes s.expLen p := by
  obtain ⟨p, hp, hsum⟩ := hs.checksum_is_sum hl hr
  refine ⟨p ++ [v], ?_, ?_⟩
  · simpa using Memory.readFrom_write_next v hp
  · rw [addBytes_append, ← hsum]
    rfl

/-- BYTES_READ does not wrap while it is an index of RXBUF. -/
theorem toNat_bytesRead_succ {n : Byte} (h : n.toNat < rxBufSize) : (n + 1).toNat = n.toNat + 1 := by
  rw [rxBufSize] at h
  bv_omega

theorem ContentEffect.keeps_inv {b : Byte} {s t : State} (h : ContentEffect b s t) (hr : s.receiving = true)
    (hs : s.Inv) : t.Inv := by
  cases h with
  | highNibble _ =>
    exact { hs with no_nibble_is_zero := nofun, nibble_in_frame := fun hf => absurd (hr.symm.trans hf) nofun }
  | tooBig _ _ _ =>
    exact { hs with no_nibble_is_zero := fun _ => rfl, nibble_in_frame := fun _ => rfl, checksum_is_sum := nofun }
  | lengthPair _ _ hv =>
    exact { hs with
      exp_len_bounded := fun _ => hv
      bytes_read_bounded := fun _ => Nat.zero_le _
      no_length_is_zero := nofun
      no_length_no_bytes := nofun
      no_nibble_is_zero := fun _ => rfl
      nibble_in_frame := fun _ => rfl
      checksum_is_sum := fun _ _ => ⟨[], rfl, rfl⟩ }
  | payloadPair _ hl hb hi =>
    have hsucc := toNat_bytesRead_succ hi
    exact { hs with
      bytes_read_bounded := fun _ => by simp only [hsucc]; omega
      no_length_no_bytes := fun hf => absurd (hl.symm.trans hf) nofun
      no_nibble_is_zero := fun _ => rfl
      nibble_in_frame := fun _ => rfl
      checksum_is_sum := fun _ _ => by simpa only [hsucc] using hs.checksum_is_sum_after hl hr _
      rx_buf_wf := Memory.wf_write _ hs.rx_buf_wf hi }
  | checksumPair _ _ _ _ _ =>
    exact { hs with no_nibble_is_zero := fun _ => rfl, nibble_in_frame := fun _ => rfl, checksum_is_sum := nofun }
  | afterZeroLength _ _ _ _ =>
    exact { hs with no_nibble_is_zero := fun _ => rfl, nibble_in_frame := fun _ => rfl }

/-- Where only solicited responses are recorded, one is recorded only while a frame is outstanding (R102). -/
theorem State.Inv.txLen_ne_zero_of_accepts {s : State} (hs : s.Inv) (ha : acceptsResponse s = true)
    (hu : s.params.acceptUnsolicited = false) : s.txLen ≠ 0 := by
  intro h0
  have hidle := hs.nothing_sent_idle hu h0
  simp [acceptsResponse, hidle, hu] at ha

theorem RxEffect.keeps_inv {i : Instr} {b : Byte} {s t : State} (h : RxEffect i b s t) (hs : s.Inv) : t.Inv := by
  cases h with
  | opened _ =>
    exact { hs with
      exp_len_bounded := nofun
      bytes_read_bounded := nofun
      no_length_is_zero := fun _ => rfl
      no_length_no_bytes := fun _ => ⟨rfl, rfl⟩
      no_nibble_is_zero := fun _ => rfl
      nibble_in_frame := nofun
      checksum_is_sum := nofun }
  | content _ _ hr hc => exact hc.keeps_inv hr hs
  | recorded a _ _ ha hacc =>
    have hidle : a ≠ .idle := by obtain ⟨-, rfl⟩ | ⟨-, rfl⟩ := ha <;> decide
    exact { hs with
      idle_nothing_sent := fun h => absurd h hidle
      nothing_sent_idle := fun hu h0 => absurd h0 (hs.txLen_ne_zero_of_accepts hacc hu) }
  | noise _ _ => exact { hs with }

theorem SendEffect.keeps_inv {p : List Byte} {s t : State} (h : SendEffect p s t) (hs : s.Inv) : t.Inv := by
  cases h with
  | tooBig _ => exact { hs with }
  | sinkFailed _ _ _ _ _ _ _ => exact { hs with }
  | sent sk _ hfit =>
    have hlen := toNat_txLen_of_fits hs.params_legal hfit
    have hpos : 0 < (txFrame s.params p).length := by
      rw [txFrame_length]
      omega
    have hne : BitVec.ofNat 8 (txFrame s.params p).length ≠ 0 := by
      intro h0
      rw [h0] at hlen
      exact hpos.ne hlen
    exact { hs with
      idle_nothing_sent := nofun
      nothing_sent_idle := fun _ h0 => absurd h0 hne
      tx_buf_wf := Memory.wf_writeFrom _ hs.tx_buf_wf (by simpa using hfit)
      tx_buf_written := ⟨_, by simpa only [hlen] using Memory.readFrom_writeFrom s.txBuf 0 (txFrame s.params p)⟩
      tx_len_bounded := hlen.trans_le hfit
      last_sent_bounded := Nat.mod_lt _ (timeMod_pos _) }

theorem ResendEffect.keeps_inv {s t : State} (h : ResendEffect s t) (hs : s.Inv) : t.Inv := by
  cases h with
  | nothingRetained _ => exact { hs with }
  | sinkFailed _ _ _ _ _ _ _ => exact { hs with }
  | resent _ _ hne _ =>
    exact { hs with
      idle_nothing_sent := nofun
      nothing_sent_idle := fun _ h0 => absurd h0 hne
      last_sent_bounded := Nat.mod_lt _ (timeMod_pos _) }

theorem exec_keeps_inv {i : Instr} {s t : State} (h : exec i s = .next t) (hs : s.Inv) : t.Inv := by
  cases i with
  | rxSom => exact (exec_rx_next rfl h).keeps_inv hs
  | rxAck => exact (exec_rx_next rfl h).keeps_inv hs
  | rxNak => exact (exec_rx_next rfl h).keeps_inv hs
  | rxHex b => exact (exec_rx_next rfl h).keeps_inv hs
  | rxOther b => exact (exec_rx_next rfl h).keeps_inv hs
  | cmdReady x =>
    obtain rfl := Host.Outcome.next.inj h
    exact { hs with }
  | cmdSend p => exact (execCmdSend_next h).keeps_inv hs
  | cmdResend x => exact (execCmdResend_next (x := x) h).keeps_inv hs

/-! ### Every step keeps the invariant -/

/-- The state an event leads to, or the one its transaction runs in, has the invariant. -/
def Fetched.Inv : Fetched → Prop
  | .idle => True
  | .directive t => t.Inv
  | .run _ t => t.Inv
  | .refuse _ => True

theorem present_inv (w : CmdWord) (payload : List Byte) (now : Nat) {s : State} (hs : s.Inv) :
    (present w payload now s).Inv := by
  unfold present
  split
  · exact { hs with }
  · trivial

theorem takeEvent_inv (e : Event) {s : State} (hs : s.Inv) : (takeEvent e s).Inv := by
  cases e with
  | transaction w payload now => exact present_inv w payload now hs
  | sink answers => exact { hs with }
  | consumer answer => exact { hs with }
  | reset => exact resetRegisters_inv hs
  | overlapping => trivial

theorem fetch_inv {s : State} (hs : s.Inv) : (fetch s).Inv := by
  unfold fetch
  split
  · trivial
  · exact takeEvent_inv _ { hs with }

/-- Settles O4: whatever the next event is, the state it leads to, or its transaction runs in, has the invariant, and
every transaction keeps it. -/
theorem stepKeepsInvariant : Obligations.StepKeepsInvariant := by
  intro s t hs h
  have hf := fetch_inv hs
  unfold step at h
  split at h <;> rename_i hfetch <;> rw [hfetch] at hf
  · exact Host.Outcome.next.inj h ▸ hs
  · exact Host.Outcome.next.inj h ▸ hf
  · exact exec_keeps_inv h hf
  · cases h

/-! ### What is delivered -/

/-- The payload of a checksum pair's output is the one RXBUF holds (R112). -/
theorem ChecksumOutputs.readFrom_of_delivered {v : Byte} {s : State} {out : List Output} {p : List Byte}
    (h : ChecksumOutputs v s out) (hp : p ∈ deliveredPayloads out) :
    Memory.readFrom s.rxBuf 0 (s.expLen.toNat - 1) = some p := by
  cases h with
  | sinkFailed _ _ _ => simp [deliveredPayloads, Output.payload] at hp
  | delivered q c _ _ hq =>
    obtain rfl : q = p := by simpa [deliveredPayloads, Output.payload] using hp
    exact hq
  | refusedFrame _ => simp [deliveredPayloads, Output.payload] at hp

@[simp] theorem deliveredPayloads_returned (c : Status) : deliveredPayloads [.returned c] = [] := rfl

/-- Only a checksum pair delivers (R108, R112). -/
theorem ContentEffect.atChecksumPair_of_delivered {b : Byte} {s t : State} {p : List Byte} (h : ContentEffect b s t)
    (hr : s.receiving = true) (hp : p ∈ deliveredPayloads (t.trace.drop s.trace.length)) :
    AtChecksumPair s ∧ Memory.readFrom s.rxBuf 0 (s.expLen.toNat - 1) = some p := by
  cases h with
  | checksumPair out hn hl hb hout => exact ⟨⟨hr, hn, hl, hb⟩, hout.readFrom_of_delivered (by simpa using hp)⟩
  | _ => simp at hp

theorem RxEffect.atChecksumPair_of_delivered {i : Instr} {b : Byte} {s t : State} {p : List Byte}
    (h : RxEffect i b s t) (hp : p ∈ deliveredPayloads (t.trace.drop s.trace.length)) :
    AtChecksumPair s ∧ Memory.readFrom s.rxBuf 0 (s.expLen.toNat - 1) = some p := by
  cases h with
  | content _ _ hr hc => exact hc.atChecksumPair_of_delivered hr hp
  | _ => simp at hp

/-- At a checksum pair CKSUM is the sum of the length byte and all EXP_LEN - 1 payload bytes (R31 (d)). -/
theorem State.Inv.cksum_at_checksumPair {s : State} (hs : s.Inv) (hat : AtChecksumPair s) {p : List Byte}
    (hp : Memory.readFrom s.rxBuf 0 (s.expLen.toNat - 1) = some p) : s.cksum = addBytes s.expLen p := by
  obtain ⟨hr, -, hl, hb⟩ := hat
  obtain ⟨q, hq, hsum⟩ := hs.checksum_is_sum hl hr
  have hcount : s.bytesRead.toNat = s.expLen.toNat - 1 := by omega
  rw [hcount, hp] at hq
  rwa [Option.some.inj hq]

/-- Settles O32: only a checksum pair delivers, and it delivers the payload that CKSUM sums. -/
theorem deliveredPayloadMatchesLengthAndChecksum : Obligations.DeliveredPayloadMatchesLengthAndChecksum := by
  intro i s t p hs hrx h hp
  obtain ⟨b, hb⟩ := Option.ne_none_iff_exists'.1 hrx
  obtain ⟨hat, hread⟩ := (exec_rx_next hb h).atChecksumPair_of_delivered hp
  refine ⟨Memory.readFrom_length hread, ?_⟩
  rw [hs.cksum_at_checksumPair hat hread, toNat_addBytes]

end Sys2Proof.Machine
end

section
/-! The memory of the block (20_memory.md): with the invariant no transaction faults, a RESEND replays the frame of the last
SEND that ended in Ok, a step runs the one transaction presented, and READY writes nothing. -/

namespace Sys2Proof.Machine

/-! ### The ways a transaction faults, each shut out by the invariant -/

/-- A transaction that faults past a call was answered Ok by the call and faults in what follows it. -/
theorem Called.thenOk_fault {r : Called} {k : State → Host.Outcome State Fault Refusal} {f : Fault}
    (h : r.thenOk k = .fault f) : ∃ u, r = .returned .ok u ∧ k u = .fault f := by
  unfold Called.thenOk at h
  split at h
  · split at h <;> rename_i hc
    · exact ⟨_, by rw [hc], h⟩
    · cases h
  · cases h

theorem Called.asStatus_ne_fault (r : Called) (f : Fault) : r.asStatus ≠ .fault f := by
  cases r <;> simp

/-- The index of a payload pair is one RXBUF has (R41). -/
theorem State.Inv.bytesRead_lt_rxBufSize {s : State} (hs : s.Inv) (hl : s.lenValid = true)
    (hb : (s.bytesRead.toNat : Int) < (s.expLen.toNat : Int) - 1) : s.bytesRead.toNat < rxBufSize := by
  have hexp := hs.exp_len_bounded hl
  have hmax := hs.params_legal.2
  rw [rxBufSize]
  omega

/-- At a checksum pair every entry of the payload has been written (R41, I8). -/
theorem State.Inv.payload_written {s : State} (hs : s.Inv) (hl : s.lenValid = true) (hr : s.receiving = true)
    (hb : (s.bytesRead.toNat : Int) = (s.expLen.toNat : Int) - 1) :
    ∃ p, Memory.readFrom s.rxBuf 0 (s.expLen.toNat - 1) = some p := by
  obtain ⟨p, hp, -⟩ := hs.checksum_is_sum hl hr
  have hcount : s.expLen.toNat - 1 = s.bytesRead.toNat := by omega
  exact ⟨p, hcount ▸ hp⟩

theorem lengthPair_ne_fault (v : Byte) (s : State) (f : Fault) : lengthPair v s ≠ .fault f := by
  unfold lengthPair
  split <;> simp

theorem payloadPair_ne_fault {s : State} (hi : s.bytesRead.toNat < rxBufSize) (v : Byte) (f : Fault) :
    payloadPair v s ≠ .fault f := by
  simp [payloadPair, hi]

theorem deliverPayload_ne_fault {s : State} {p : List Byte}
    (hp : Memory.readFrom s.rxBuf 0 (s.expLen.toNat - 1) = some p) (f : Fault) : deliverPayload s ≠ .fault f := by
  rw [deliverPayload, hp]
  exact Called.asStatus_ne_fault _ f

/-- Emitting the acknowledgement leaves the payload that is then delivered as it was. -/
theorem checksumPair_ne_fault {s : State} {p : List Byte}
    (hp : Memory.readFrom s.rxBuf 0 (s.expLen.toNat - 1) = some p) (v : Byte) (f : Fault) :
    checksumPair v s ≠ .fault f := by
  intro h
  unfold checksumPair at h
  split at h <;> obtain ⟨u, he, hk⟩ := Called.thenOk_fault h
  · obtain ⟨rfl, -⟩ := emit_returned he
    refine deliverPayload_ne_fault (p := p) ?_ f hk
    exact hp
  · cases hk

theorem completedPair_ne_fault {s : State} (hs : s.Inv) (hr : s.receiving = true) (v : Byte) (f : Fault) :
    completedPair v s ≠ .fault f := by
  unfold completedPair
  split <;> rename_i hl
  · exact lengthPair_ne_fault v s f
  · have hl : s.lenValid = true := by simpa using hl
    split <;> rename_i hb
    · exact payloadPair_ne_fault (hs.bytesRead_lt_rxBufSize hl hb) v f
    · split <;> rename_i hb
      · obtain ⟨p, hp⟩ := hs.payload_written hl hr hb
        exact checksumPair_ne_fault hp v f
      · simp

theorem rxContent_ne_fault {s : State} (hs : s.Inv) (hr : s.receiving = true) (b : Byte) (f : Fault) :
    rxContent b s ≠ .fault f := by
  have hs' : { s with nibValid := false, nib := 0 }.Inv :=
    { hs with no_nibble_is_zero := fun _ => rfl, nibble_in_frame := fun _ => rfl }
  unfold rxContent
  split
  · exact completedPair_ne_fault hs' hr _ f
  · simp [highNibble]

theorem recordResponse_ne_fault (a : AckState) (s : State) (f : Fault) : recordResponse a s ≠ .fault f := by
  unfold recordResponse
  split <;> simp

theorem contentOrJunk_ne_fault {s : State} (hs : s.Inv) (b : Byte) (f : Fault) : contentOrJunk b s ≠ .fault f := by
  unfold contentOrJunk
  split <;> rename_i hr
  · exact rxContent_ne_fault hs hr b f
  · simp

/-- RX_ACK and RX_NAK: content inside a frame, a response outside (R102, R103). -/
theorem contentOrResponse_ne_fault {s : State} (hs : s.Inv) (b : Byte) (a : AckState) (f : Fault) :
    (if s.receiving then rxContent b s else recordResponse a s) ≠ .fault f := by
  split <;> rename_i hr
  · exact rxContent_ne_fault hs hr b f
  · exact recordResponse_ne_fault a s f

/-- The frame of a payload within the bound fits TXBUF (R66, R5). -/
theorem txFrame_length_le {pr : Params} {p : List Byte} (hp : p.length ≤ pr.maxMessageLength) :
    (txFrame pr p).length ≤ pr.txBufSize := by
  rw [txFrame_length, Params.txBufSize]
  split <;> omega

/-- A SEND faults in no state at all: the size check comes first (R161). -/
theorem execCmdSend_ne_fault (p : List Byte) (s : State) (f : Fault) : execCmdSend p s ≠ .fault f := by
  intro h
  unfold execCmdSend at h
  split at h <;> rename_i hp
  · cases h
  · obtain ⟨u, he, hk⟩ := Called.thenOk_fault h
    obtain ⟨ext, sk, rfl, -⟩ := emitAll_returned he
    rw [if_pos (txFrame_length_le (Nat.not_lt.1 hp))] at hk
    cases hk

theorem execCmdResend_ne_fault {s : State} (hs : s.Inv) (x : Byte) (f : Fault) : execCmdResend x s ≠ .fault f := by
  intro h
  obtain ⟨bs, hbs⟩ := hs.tx_buf_written
  rw [execCmdResend, hbs] at h
  split at h
  · cases h
  · obtain ⟨u, -, hk⟩ := Called.thenOk_fault h
    cases hk

theorem exec_ne_fault {s : State} (hs : s.Inv) (i : Instr) (f : Fault) : exec i s ≠ .fault f := by
  cases i with
  | rxSom => exact nofun
  | rxAck => exact contentOrResponse_ne_fault hs 0x06 .ack f
  | rxNak => exact contentOrResponse_ne_fault hs 0x15 .nak f
  | rxHex b => exact contentOrJunk_ne_fault hs b f
  | rxOther b => exact contentOrJunk_ne_fault hs b f
  | cmdReady _ => exact nofun
  | cmdSend p => exact execCmdSend_ne_fault p s f
  | cmdResend x => exact execCmdResend_ne_fault hs x f

/-- Settles O5: a step faults only in its transaction, which runs in a state with the invariant. -/
theorem noStepFaultsUnderInvariant : Obligations.NoStepFaultsUnderInvariant := by
  intro s hs f h
  have hf := fetch_inv hs
  unfold step at h
  split at h <;> rename_i hfetch <;> rw [hfetch] at hf
  · cases h
  · cases h
  · exact exec_ne_fault hf _ f h
  · cases h

/-! ### The retained frame -/

/-- TXBUF holds the frame `f`, not empty, for a RESEND to replay (R28, R42). -/
def State.Retains (f : List Byte) (s : State) : Prop :=
  s.txLen ≠ 0 ∧ Memory.readFrom s.txBuf 0 s.txLen.toNat = some f

/-- The retained frame of two states is the same one. -/
def SameRetained (s t : State) : Prop := t.txBuf = s.txBuf ∧ t.txLen = s.txLen

theorem State.Retains.of_sameRetained {f : List Byte} {s t : State} (hs : s.Retains f) (h : SameRetained s t) :
    t.Retains f := by
  obtain ⟨hbuf, hlen⟩ := h
  rwa [State.Retains, hbuf, hlen]

theorem txFrame_length_pos (pr : Params) (p : List Byte) : 0 < (txFrame pr p).length := by
  rw [txFrame_length]
  omega

/-- A SEND within the bound whose every byte is taken retains its frame (R162). -/
theorem execCmdSend_takes {p : List Byte} {s : State} (hp : p.length ≤ s.params.maxMessageLength)
    (hsink : SinkTakes (txFrame s.params p).length s) :
    execCmdSend p s = returnStatus .ok (retainFrame (txFrame s.params p) { s with
      sink := s.sink.drop (txFrame s.params p).length, trace := s.trace ++ takenBytes (txFrame s.params p) }) := by
  rw [execCmdSend, if_neg (Nat.not_lt.2 hp), sendFrame, emitAll_takes _ hsink, Called.thenOk_ok,
    if_pos (txFrame_length_le hp)]

/-- A RESEND of a retained frame whose every byte is taken replays the frame (R164, R165). -/
theorem execCmdResend_takes {f : List Byte} {s : State} (hf : s.Retains f) (hsink : SinkTakes f.length s) (x : Byte) :
    execCmdResend x s = returnStatus .ok (restartWindow { s with
      sink := s.sink.drop f.length, trace := s.trace ++ takenBytes f }) := by
  obtain ⟨hne, hread⟩ := hf
  rw [execCmdResend, if_neg hne, hread]
  simp only [emitAll_takes _ hsink, Called.thenOk_ok]

/-- What a SEND has just retained is its frame: the length fits TX_LEN's 8 bits, and no frame is empty. -/
theorem retainFrame_retains {pr : Params} (hpr : pr.Legal) {p : List Byte} (hp : p.length ≤ pr.maxMessageLength)
    (s : State) : (retainFrame (txFrame pr p) s).Retains (txFrame pr p) := by
  have hlen := toNat_txLen_of_fits hpr (txFrame_length_le hp)
  refine ⟨fun h0 => ?_, ?_⟩
  · rw [retainFrame_txLen] at h0
    rw [h0] at hlen
    exact (txFrame_length_pos pr p).ne hlen
  · rw [retainFrame_txLen, retainFrame_txBuf, hlen]
    exact Memory.readFrom_writeFrom s.txBuf 0 _

theorem ContentEffect.sameRetained {b : Byte} {s t : State} (h : ContentEffect b s t) : SameRetained s t := by
  cases h <;> exact ⟨rfl, rfl⟩

theorem RxEffect.sameRetained {i : Instr} {b : Byte} {s t : State} (h : RxEffect i b s t) : SameRetained s t := by
  cases h with
  | content _ _ _ hc => exact hc.sameRetained
  | _ => exact ⟨rfl, rfl⟩

/-- A SEND that replaces the retained frame ends in Ok (R162, R163). -/
theorem SendEffect.sameRetained_or_ok {p : List Byte} {s t : State} (h : SendEffect p s t) :
    SameRetained s t ∨ t.trace.getLast? = some (.returned .ok) := by
  cases h with
  | tooBig _ => exact .inl ⟨rfl, rfl⟩
  | sinkFailed _ _ _ _ _ _ _ => exact .inl ⟨rfl, rfl⟩
  | sent _ _ _ => exact .inr List.getLast?_concat

theorem ResendEffect.sameRetained {s t : State} (h : ResendEffect s t) : SameRetained s t := by
  cases h <;> exact ⟨rfl, rfl⟩

/-- The only transaction that replaces the retained frame is a SEND that ends in Ok (R42, R51). -/
theorem exec_sameRetained {i : Instr} {s t : State} (h : exec i s = .next t)
    (hsend : ∀ q, i = .cmdSend q → t.trace.getLast? ≠ some (.returned .ok)) : SameRetained s t := by
  cases i with
  | rxSom => exact (exec_rx_next rfl h).sameRetained
  | rxAck => exact (exec_rx_next rfl h).sameRetained
  | rxNak => exact (exec_rx_next rfl h).sameRetained
  | rxHex _ => exact (exec_rx_next rfl h).sameRetained
  | rxOther _ => exact (exec_rx_next rfl h).sameRetained
  | cmdReady _ =>
    obtain rfl := Host.Outcome.next.inj h
    exact ⟨rfl, rfl⟩
  | cmdSend q => exact (execCmdSend_next h).sameRetained_or_ok.resolve_right (hsend q rfl)
  | cmdResend x => exact (execCmdResend_next (x := x) h).sameRetained

/-! ### Runs without a successful SEND -/

theorem runInstrs_cons_next_iff {i : Instr} {is : List Instr} {s u : State} :
    runInstrs (i :: is) s = .next u ↔ ∃ t, exec i s = .next t ∧ runInstrs is t = .next u := by
  rw [runInstrs]
  cases exec i s <;> simp

/-- No SEND of a list of transactions, run from `s`, ends in Ok. -/
def NoSendEndsOk (is : List Instr) (s : State) : Prop :=
  ∀ before q after a b, is = before ++ .cmdSend q :: after → runInstrs before s = .next a →
    exec (.cmdSend q) a = .next b → b.trace.getLast? ≠ some (.returned .ok)

theorem NoSendEndsOk.head {i : Instr} {is : List Instr} {s t : State} (h : NoSendEndsOk (i :: is) s)
    (hi : exec i s = .next t) : ∀ q, i = .cmdSend q → t.trace.getLast? ≠ some (.returned .ok) := by
  rintro q rfl
  exact h [] q is s t rfl rfl hi

theorem NoSendEndsOk.tail {i : Instr} {is : List Instr} {s t : State} (h : NoSendEndsOk (i :: is) s)
    (hi : exec i s = .next t) : NoSendEndsOk is t := by
  rintro before q after a b rfl ha hb
  exact h (i :: before) q after a b rfl (runInstrs_cons_next_iff.2 ⟨t, hi, ha⟩) hb

/-- A retained frame stays retained until a SEND ends in Ok. -/
theorem State.Retains.of_runInstrs {f : List Byte} {is : List Instr} {s u : State} (hs : s.Retains f)
    (hno : NoSendEndsOk is s) (hrun : runInstrs is s = .next u) : u.Retains f := by
  induction is generalizing s with
  | nil => exact Host.Outcome.next.inj hrun ▸ hs
  | cons i is ih =>
    obtain ⟨t, hi, hrest⟩ := runInstrs_cons_next_iff.1 hrun
    exact ih (hs.of_sameRetained (exec_sameRetained hi (hno.head hi))) (hno.tail hi) hrest

/-- Settles O44: the SEND retains its frame, the transactions after it keep it, and the RESEND reads it back. -/
theorem resendReplaysTheLastSend : Obligations.ResendReplaysTheLastSend := by
  intro p s t u between x hlegal hp hsink hsend hno hrun hsinkU
  have hsent : t.Retains (txFrame s.params p) := by
    obtain rfl := Host.Outcome.next.inj ((execCmdSend_takes hp hsink).symm.trans hsend)
    exact retainFrame_retains hlegal hp _
  have hkept : u.Retains (txFrame s.params p) := hsent.of_runInstrs hno hrun
  exact ⟨_, execCmdResend_takes hkept hsinkU x, rfl⟩

/-! ### One step, and READY -/

/-- A step with a transaction presented: it is taken off the events, TIME is sampled, and it runs (R47, R68). -/
theorem step_transaction {s : State} {w : CmdWord} {payload : List Byte} {now : Nat} {rest : List Event} {i : Instr}
    {unread : List Byte} (hpend : s.pending = .transaction w payload now :: rest)
    (hdec : decode w payload = .ok (i, unread)) :
    step s = exec i { s with pending := rest, time := sampleTime s.params now } := by
  have hfetch : fetch s = .run i { s with pending := rest, time := sampleTime s.params now } := by
    simp only [fetch, hpend, takeEvent, present, hdec]
  rw [step, hfetch]

/-- Settles O18. -/
theorem stepRunsTheDecodedTransaction : Obligations.StepRunsTheDecodedTransaction :=
  fun _ _ _ _ _ _ _ hpend hdec => step_transaction hpend hdec

/-- READY reports, whatever its word's low byte (R140). -/
theorem exec_cmdReady (x : Byte) (s : State) : exec (.cmdReady x) s = returnStatus (readyStatus s) s := rfl

/-- The status on the STATUS port is nothing READY reads. -/
@[simp] theorem readyStatus_observe (o : Output) (s : State) : readyStatus (observe o s) = readyStatus s := rfl

/-- Settles O37: what a READY writes, its status, is nothing the next READY reads. -/
theorem readyWritesNothing : Obligations.ReadyWritesNothing := by
  intro x y s t h
  obtain rfl : observe (.returned (readyStatus s)) s = t := Host.Outcome.next.inj h
  refine ⟨readyStatus s, rfl, ?_⟩
  rw [exec_cmdReady, readyStatus_observe, returnStatus_next]

end Sys2Proof.Machine
end

section
/-! The encoding (30_encoding.md): the decoder on each kind of word and the encoder, the order of the opcode table's rows,
and the hex pairs of a frame. -/

namespace Sys2Proof

open Laws.EncodingKind

/-! ### The decoder on each kind of word -/

/-- A word is its kind and its data (R68). -/
theorem wordOf_kindOf_dataOf (w : CmdWord) : wordOf (kindOf w) (dataOf w) = w := by
  revert w; decide +kernel

/-- Case analysis of a word by the four kinds of R68. -/
theorem wordCases {motive : CmdWord → Prop} (rx : ∀ b, motive (wordOf 0 b)) (ready : ∀ x, motive (wordOf 1 x))
    (send : ∀ n, motive (wordOf 2 n)) (resend : ∀ x, motive (wordOf 3 x)) (w : CmdWord) : motive w := by
  have hkind : ∀ k : BitVec 2, k = 0 ∨ k = 1 ∨ k = 2 ∨ k = 3 := by decide
  rw [← wordOf_kindOf_dataOf w]
  obtain h | h | h | h := hkind (kindOf w) <;> rw [h]
  · exact rx _
  · exact ready _
  · exact send _
  · exact resend _

/-- The class of the table's rows for each class of a received byte (R60, R69). -/
def ByteClass.rowClass : ByteClass → RowClass
  | .som => .rxSom
  | .ack => .rxAck
  | .nak => .rxNak
  | .hex => .rxHex
  | .other => .rxOther

theorem rowOf_wordOf_rx (b : Byte) : (rowOf (wordOf 0 b)).map OpcodeRow.cls = some (byteClass b).rowClass := by
  revert b; decide +kernel

theorem rowOf_wordOf_ready (x : Byte) : (rowOf (wordOf 1 x)).map OpcodeRow.cls = some .cmdReady := by
  revert x; decide +kernel

theorem rowOf_wordOf_send (n : Byte) : (rowOf (wordOf 2 n)).map OpcodeRow.cls = some .cmdSend := by
  revert n; decide +kernel

theorem rowOf_wordOf_resend (x : Byte) : (rowOf (wordOf 3 x)).map OpcodeRow.cls = some .cmdResend := by
  revert x; decide +kernel

theorem decode_wordOf_rx (b : Byte) (payload : List Byte) : decode (wordOf 0 b) payload = .ok (rxInstr b, payload) := by
  rw [decode, rowOf_wordOf_rx, dataOf_wordOf, rxInstr]
  cases byteClass b <;> rfl

theorem decode_wordOf_ready (x : Byte) (payload : List Byte) :
    decode (wordOf 1 x) payload = .ok (.cmdReady x, payload) := by
  rw [decode, rowOf_wordOf_ready, dataOf_wordOf]

theorem decode_wordOf_send (n : Byte) (payload : List Byte) :
    decode (wordOf 2 n) payload = decodeSend n.toNat payload := by
  rw [decode, rowOf_wordOf_send, dataOf_wordOf]

theorem decode_wordOf_resend (x : Byte) (payload : List Byte) :
    decode (wordOf 3 x) payload = .ok (.cmdResend x, payload) := by
  rw [decode, rowOf_wordOf_resend, dataOf_wordOf]

theorem decodeSend_of_le {n : Nat} {payload : List Byte} (h : n ≤ payload.length) :
    decodeSend n payload = .ok (.cmdSend (payload.take n), payload.drop n) := if_pos h

theorem decodeSend_of_lt {n : Nat} {payload : List Byte} (h : payload.length < n) :
    decodeSend n payload = .error (.payloadTooShort n payload.length) := if_neg (Nat.not_le.2 h)

/-! ### The encoder -/

theorem encode_rxInstr (b : Byte) : encode (rxInstr b) = (wordOf 0 b, []) := by
  unfold rxInstr byteClass
  split_ifs with hsom hack hnak hhex
  · rw [hsom]; rfl
  · rw [hack]; rfl
  · rw [hnak]; rfl
  · rfl
  · rfl

theorem rxInstr_wellFormed (b : Byte) : (rxInstr b).WellFormed := by
  unfold rxInstr
  cases h : byteClass b with
  | hex => exact decide_eq_true h
  | other => exact decide_eq_true h
  | _ => rfl

theorem rxInstr_of_byteClass_hex {b : Byte} (h : byteClass b = .hex) : rxInstr b = .rxHex b := by rw [rxInstr, h]

theorem rxInstr_of_byteClass_other {b : Byte} (h : byteClass b = .other) : rxInstr b = .rxOther b := by rw [rxInstr, h]

/-- A payload a SEND can carry is as long as its word's W[7:0] says (R68). -/
theorem toNat_ofNat_length {p : List Byte} (hp : p.length ≤ 255) : (BitVec.ofNat 8 p.length).toNat = p.length :=
  Nat.mod_eq_of_lt (by omega)

/-- Settles O7: each word is one the decoder's equation for its kind answers. -/
theorem decodeAfterEncode : Obligations.DecodeAfterEncode := by
  intro i rest hi
  cases i with
  | rxSom => exact decode_wordOf_rx 0x0A rest
  | rxAck => exact decode_wordOf_rx 0x06 rest
  | rxNak => exact decode_wordOf_rx 0x15 rest
  | rxHex b =>
    have hb : byteClass b = .hex := of_decide_eq_true hi
    rw [← rxInstr_of_byteClass_hex hb, encode_rxInstr]
    exact decode_wordOf_rx b rest
  | rxOther b =>
    have hb : byteClass b = .other := of_decide_eq_true hi
    rw [← rxInstr_of_byteClass_other hb, encode_rxInstr]
    exact decode_wordOf_rx b rest
  | cmdReady x => exact decode_wordOf_ready x rest
  | cmdSend p =>
    have hp : p.length ≤ 255 := of_decide_eq_true hi
    rw [encode, decode_wordOf_send, toNat_ofNat_length hp, decodeSend_of_le (by simp)]
    simp
  | cmdResend x => exact decode_wordOf_resend x rest

/-- Settles O8. -/
theorem encodeAfterDecode : Obligations.EncodeAfterDecode := by
  intro w payload i rest h
  cases w using wordCases with
  | rx b =>
    rw [decode_wordOf_rx] at h
    cases h
    rw [encode_rxInstr]
    exact ⟨rxInstr_wellFormed b, rfl, rfl⟩
  | ready x =>
    rw [decode_wordOf_ready] at h
    cases h
    exact ⟨rfl, rfl, rfl⟩
  | send n =>
    rw [decode_wordOf_send] at h
    obtain hn | hn := Nat.lt_or_ge payload.length n.toNat
    · rw [decodeSend_of_lt hn] at h
      cases h
    · rw [decodeSend_of_le hn] at h
      cases h
      have hlen : (payload.take n.toNat).length = n.toNat := List.length_take_of_le hn
      refine ⟨decide_eq_true ?_, ?_, List.take_append_drop _ _⟩
      · have := n.isLt
        omega
      · rw [encode, hlen, BitVec.ofNat_toNat, BitVec.setWidth_eq]
  | resend x =>
    rw [decode_wordOf_resend] at h
    cases h
    exact ⟨rfl, rfl, rfl⟩

theorem payloadNeed_wordOf_send (n : Byte) : payloadNeed (wordOf 2 n) = n.toNat := by
  rw [payloadNeed, kindOf_wordOf, dataOf_wordOf]
  exact if_pos rfl

/-- A word that asks for no payload is never turned away (R70). -/
theorem decodes_of_payloadNeed_zero {w : CmdWord} {payload : List Byte} {i : Instr} (hneed : payloadNeed w = 0)
    (hdec : decode w payload = .ok (i, payload)) :
    (payloadNeed w ≤ payload.length → ∃ i rest, decode w payload = .ok (i, rest)) ∧
      (payload.length < payloadNeed w →
        decode w payload = .error (.payloadTooShort (payloadNeed w) payload.length)) :=
  ⟨fun _ => ⟨i, payload, hdec⟩, fun h => absurd h (by omega)⟩

/-- Settles O9. -/
theorem noWordIsIllegal : Obligations.NoWordIsIllegal := by
  intro w payload
  cases w using wordCases with
  | rx b => exact decodes_of_payloadNeed_zero (payloadNeed_wordOf (by decide) b) (decode_wordOf_rx b payload)
  | ready x => exact decodes_of_payloadNeed_zero (payloadNeed_wordOf (by decide) x) (decode_wordOf_ready x payload)
  | send n =>
    rw [decode_wordOf_send, payloadNeed_wordOf_send]
    exact ⟨fun h => ⟨_, _, decodeSend_of_le h⟩, decodeSend_of_lt⟩
  | resend x => exact decodes_of_payloadNeed_zero (payloadNeed_wordOf (by decide) x) (decode_wordOf_resend x payload)

/-! ### The rows of the opcode table -/

/-- An earlier row and a later one: the later has fewer mask bits, or their bits conflict where both masks look, so that no
word is selected by both (R69). -/
abbrev OpcodeRow.Precedes (r r' : OpcodeRow) : Prop :=
  r'.maskBits < r.maskBits ∨ r.bits &&& r'.mask ≠ r'.bits &&& r.mask

theorem opcodeTable_pairwise : opcodeTable.Pairwise OpcodeRow.Precedes := by decide

/-- Two rows that select one word agree where both masks look. -/
theorem OpcodeRow.bits_agree {r r' : OpcodeRow} {w : CmdWord} (hr : r.selects w = true) (hr' : r'.selects w = true) :
    r.bits &&& r'.mask = r'.bits &&& r.mask := by
  rw [← eq_of_beq hr, ← eq_of_beq hr', BitVec.and_assoc, BitVec.and_assoc, BitVec.and_comm r.mask]

theorem rowOf_isSome (w : CmdWord) : (rowOf w).isSome := by
  rw [← Option.isSome_map (f := OpcodeRow.cls)]
  cases w using wordCases with
  | rx b => rw [rowOf_wordOf_rx, Option.isSome_some]
  | ready x => rw [rowOf_wordOf_ready, Option.isSome_some]
  | send n => rw [rowOf_wordOf_send, Option.isSome_some]
  | resend x => rw [rowOf_wordOf_resend, Option.isSome_some]

/-- Settles O10: the first row that selects a word precedes every other row that does, and those do not conflict with it. -/
theorem mostSpecificRowDecodes : Obligations.MostSpecificRowDecodes := by
  intro w
  obtain ⟨r, hrow⟩ := Option.isSome_iff_exists.1 (rowOf_isSome w)
  obtain ⟨hsel, before, after, htable, hbefore⟩ := List.find?_eq_some_iff_append.1 hrow
  refine ⟨r, List.mem_of_find?_eq_some hrow, hrow, hsel, fun r' hmem hsel' => ?_⟩
  have hpairs := opcodeTable_pairwise
  rw [htable] at hmem hpairs
  rw [List.mem_append, List.mem_cons] at hmem
  obtain hmem | rfl | hmem := hmem
  · have hskip := hbefore r' hmem
    simp [hsel'] at hskip
  · exact .inl rfl
  · obtain ⟨-, hlater, -⟩ := List.pairwise_append.1 hpairs
    have hprec : r.Precedes r' := List.rel_of_pairwise_cons hlater hmem
    exact .inr (hprec.resolve_right (absurd (OpcodeRow.bits_agree hsel hsel')))

/-- Settles O11. -/
theorem rxWordDecodesByByteClass : Obligations.RxWordDecodesByByteClass := decode_wordOf_rx

/-- Settles O12. -/
theorem specWordsDecode : Obligations.SpecWordsDecode := by
  unfold Obligations.SpecWordsDecode
  decide

end Sys2Proof

namespace Sys2Proof.Machine

/-! ### Hex digits and pairs -/

/-- Settles O13. -/
theorem hexDigitValues : Obligations.HexDigitValues := by
  intro c
  unfold hexVal
  simp only [BitVec.le_def, BitVec.toNat_ofNat]
  split_ifs
  · bv_omega
  · bv_omega
  · bv_omega
  · rfl

theorem toNat_pairValue (h l : Nibble) : (pairValue h l).toNat = 16 * h.toNat + l.toNat := by
  revert h l; decide

theorem toNat_hexDigit (x : Nibble) :
    (hexDigit x).toNat = if x.toNat ≤ 9 then 0x30 + x.toNat else 0x37 + x.toNat := by
  revert x; decide

@[simp] theorem hexVal_hexDigit (x : Nibble) : hexVal (hexDigit x) = x := by
  revert x; decide

/-- A byte is the pair of its nibbles (R63). -/
theorem pairValue_nibbles (v : Byte) : pairValue (v.extractLsb' 4 4) (v.extractLsb' 0 4) = v := by
  revert v; decide

/-- Settles O14. -/
theorem hexPairsRoundTrip : Obligations.HexPairsRoundTrip := by
  refine ⟨toNat_pairValue, fun x => ⟨toNat_hexDigit x, hexVal_hexDigit x⟩, fun v => ?_⟩
  have hv := toNat_pairValue (v.extractLsb' 4 4) (v.extractLsb' 0 4)
  rw [pairValue_nibbles] at hv
  refine ⟨v.extractLsb' 4 4, v.extractLsb' 0 4, by omega, by omega, rfl, ?_⟩
  rw [hexVal_hexDigit, hexVal_hexDigit, pairValue_nibbles]

/-! ### The frame of a payload -/

theorem hexPairs_eq_flatMap (bs : List Byte) : hexPairs bs = bs.flatMap hexPair := by
  induction bs with
  | nil => rfl
  | cons b bs ih => rw [hexPairs, ih, List.flatMap_cons]

/-- R64: decoding the pairs of a list of bytes gives the bytes back. -/
theorem decodePairs_hexPairs (bs : List Byte) : decodePairs (hexPairs bs) = bs := by
  induction bs with
  | nil => rfl
  | cons b bs ih =>
    simp only [hexPairs, hexPair, List.cons_append, List.nil_append, decodePairs, hexVal_hexDigit, pairValue_nibbles, ih]

theorem frameContent_length (p : List Byte) : (frameContent p).length = 2 * (p.length + 2) := by
  simp [frameContent, hexPairs_length, frameBytes]

/-- Settles O15: the bytes are the frame's own length and checksum byte. -/
theorem frameDecodesToLengthPayloadChecksum : Obligations.FrameDecodesToLengthPayloadChecksum := by
  intro pr p hp
  have hlen : (lengthByte p).toNat = p.length + 1 := Nat.mod_eq_of_lt (by omega)
  exact ⟨lengthByte p, checksumByte p, hlen, toNat_addBytes _ _, hexPairs_eq_flatMap _, decodePairs_hexPairs _, rfl⟩

/-- Settles O16. -/
theorem frameLengths : Obligations.FrameLengths :=
  fun pr p => ⟨frameContent_length p, txFrame_length pr p, txFrame_length_le⟩

end Sys2Proof.Machine
end

section
/-! What every transaction owes the rules of 30_encoding.md: it completes unless the environment re-enters (R70), it ends
with one of the block's own statuses where the environment answers Ok (R71), and TIME and W[7:0] are read only where R68
says so. -/

namespace Sys2Proof.Machine

/-! ### Completion -/

/-- The environment holds a re-entry: one of the sink's answers, or the consumer's (R285). -/
def State.MayReenter (s : State) : Prop := .reenters ∈ s.sink ∨ s.consumer = .reenters

theorem deliver_reentered {p : List Byte} {s : State} (h : deliver p s = .reentered) : s.consumer = .reenters := by
  unfold deliver at h
  split at h
  · cases h
  · assumption

/-- A transaction refused past a call was re-entered by it, or answered Ok by it and refused in what follows. -/
theorem Called.thenOk_refused {r : Called} {k : State → Host.Outcome State Fault Refusal} {x : Refusal}
    (h : r.thenOk k = .refused x) :
    (r = .reentered ∧ x = .reentrantCall) ∨ ∃ u, r = .returned .ok u ∧ k u = .refused x := by
  unfold Called.thenOk at h
  split at h
  · split at h <;> rename_i hc
    · exact .inr ⟨_, by rw [hc], h⟩
    · cases h
  · cases h
    exact .inl ⟨rfl, rfl⟩

theorem Called.asStatus_refused {r : Called} {x : Refusal} (h : r.asStatus = .refused x) :
    r = .reentered ∧ x = .reentrantCall := by
  cases r with
  | returned _ _ => cases h
  | reentered => cases h; exact ⟨rfl, rfl⟩

theorem deliverPayload_refused {s : State} {x : Refusal} (h : deliverPayload s = .refused x) :
    x = .reentrantCall ∧ s.MayReenter := by
  unfold deliverPayload at h
  split at h
  · obtain ⟨hr, rfl⟩ := Called.asStatus_refused h
    exact ⟨rfl, .inr (deliver_reentered hr)⟩
  · cases h

theorem checksumPair_refused {v : Byte} {s : State} {x : Refusal} (h : checksumPair v s = .refused x) :
    x = .reentrantCall ∧ s.MayReenter := by
  unfold checksumPair at h
  split at h <;> obtain ⟨hr, rfl⟩ | ⟨u, hu, hk⟩ := Called.thenOk_refused h
  · exact ⟨rfl, .inl (emit_reentered hr :)⟩
  · obtain ⟨rfl, -⟩ := emit_returned hu
    obtain ⟨rfl, hre⟩ := deliverPayload_refused hk
    exact ⟨rfl, hre.imp_left List.mem_of_mem_drop⟩
  · exact ⟨rfl, .inl (emit_reentered hr :)⟩
  · cases hk

theorem lengthPair_ne_refused (v : Byte) (s : State) (x : Refusal) : lengthPair v s ≠ .refused x := by
  unfold lengthPair
  split <;> simp

theorem payloadPair_ne_refused (v : Byte) (s : State) (x : Refusal) : payloadPair v s ≠ .refused x := by
  unfold payloadPair
  split <;> simp

theorem completedPair_refused {v : Byte} {s : State} {x : Refusal} (h : completedPair v s = .refused x) :
    x = .reentrantCall ∧ s.MayReenter := by
  unfold completedPair at h
  split at h
  · exact absurd h (lengthPair_ne_refused v s x)
  · split at h
    · exact absurd h (payloadPair_ne_refused v s x)
    · split at h
      · exact checksumPair_refused h
      · cases h

theorem rxContent_refused {b : Byte} {s : State} {x : Refusal} (h : rxContent b s = .refused x) :
    x = .reentrantCall ∧ s.MayReenter := by
  unfold rxContent lowNibble at h
  split at h
  · obtain ⟨rfl, hre⟩ := completedPair_refused h
    exact ⟨rfl, hre⟩
  · cases h

theorem recordResponse_ne_refused (a : AckState) (s : State) (x : Refusal) : recordResponse a s ≠ .refused x := by
  unfold recordResponse
  split <;> simp

/-- RX_ACK and RX_NAK: content inside a frame, a response outside (R102, R103). -/
theorem contentOrResponse_refused {b : Byte} {a : AckState} {s : State} {x : Refusal}
    (h : (if s.receiving then rxContent b s else recordResponse a s) = .refused x) :
    x = .reentrantCall ∧ s.MayReenter := by
  split at h
  · exact rxContent_refused h
  · exact absurd h (recordResponse_ne_refused a s x)

theorem contentOrJunk_refused {b : Byte} {s : State} {x : Refusal} (h : contentOrJunk b s = .refused x) :
    x = .reentrantCall ∧ s.MayReenter := by
  unfold contentOrJunk at h
  split at h
  · exact rxContent_refused h
  · cases h

theorem execCmdSend_refused {p : List Byte} {s : State} {x : Refusal} (h : execCmdSend p s = .refused x) :
    x = .reentrantCall ∧ s.MayReenter := by
  unfold execCmdSend at h
  split at h
  · cases h
  · obtain ⟨hr, rfl⟩ | ⟨u, -, hk⟩ := Called.thenOk_refused h
    · exact ⟨rfl, .inl (emitAll_reentered hr)⟩
    · split at hk <;> cases hk

theorem execCmdResend_refused {y : Byte} {s : State} {x : Refusal} (h : execCmdResend y s = .refused x) :
    x = .reentrantCall ∧ s.MayReenter := by
  unfold execCmdResend at h
  split at h
  · cases h
  · split at h
    · obtain ⟨hr, rfl⟩ | ⟨u, -, hk⟩ := Called.thenOk_refused h
      · exact ⟨rfl, .inl (emitAll_reentered hr)⟩
      · cases hk
    · cases h

/-- What a refusal of a transaction says: it is for re-entry, and the environment holds one (R285, I9). -/
theorem exec_refused {i : Instr} {s : State} {x : Refusal} (h : exec i s = .refused x) :
    x = .reentrantCall ∧ s.MayReenter := by
  cases i with
  | rxSom => cases h
  | rxAck => exact contentOrResponse_refused (b := 0x06) (a := .ack) h
  | rxNak => exact contentOrResponse_refused (b := 0x15) (a := .nak) h
  | rxHex b => exact contentOrJunk_refused h
  | rxOther b => exact contentOrJunk_refused h
  | cmdReady _ => cases h
  | cmdSend p => exact execCmdSend_refused h
  | cmdResend y => exact execCmdResend_refused (y := y) h

/-- Settles O53: with the invariant nothing faults, and only a re-entry is refused. -/
theorem everyTransactionCompletes : Obligations.EveryTransactionCompletes := by
  intro i s hs hsink hcons
  cases h : exec i s with
  | next t => exact ⟨t, rfl⟩
  | fault f => exact absurd h (exec_ne_fault hs i f)
  | refused x =>
    obtain ⟨-, hre⟩ := exec_refused h
    exact absurd hre (not_or.2 ⟨hsink, hcons⟩)

/-! ### The status of a transaction -/

/-- The last output is a status of the block's own, one of the codes 0 to 7 (R71). -/
def State.EndsWithOwnStatus (t : State) : Prop := ∃ c, t.trace.getLast? = some (.returned c) ∧ c.code.toNat ≤ 7

theorem endsWithOwnStatus_of_trace {t : State} {out : List Output} {c : Status} (h : t.trace = out ++ [.returned c])
    (hc : c.code.toNat ≤ 7) : t.EndsWithOwnStatus := ⟨c, h ▸ List.getLast?_concat, hc⟩

/-- Every answer of the environment is Ok. -/
structure State.AnswersOk (s : State) : Prop where
  sink_ok : ∀ a ∈ s.sink, a = .returns .ok
  consumer_ok : s.consumer = .returns .ok

theorem State.AnswersOk.sink_eq_ok {s : State} (hs : s.AnswersOk) {c : Status} (hc : .returns c ∈ s.sink) : c = .ok :=
  Answer.returns.inj (hs.sink_ok _ hc)

theorem ChecksumOutputs.endsWithOwnStatus {v : Byte} {s t : State} {out : List Output} (h : ChecksumOutputs v s out)
    (hs : s.AnswersOk) (ht : t.trace = s.trace ++ out) : t.EndsWithOwnStatus := by
  cases h with
  | sinkFailed c hne hc => exact absurd (hs.sink_eq_ok hc) hne
  | delivered p c _ hc _ =>
    obtain rfl : c = .ok := Answer.returns.inj (hc.symm.trans hs.consumer_ok)
    exact endsWithOwnStatus_of_trace (out := s.trace ++ [.offered 0x06 .ok, .delivered p .ok]) (c := .ok) (by simp [ht])
      (by decide)
  | refusedFrame _ =>
    exact endsWithOwnStatus_of_trace (out := s.trace ++ [.offered 0x15 .ok]) (c := .badChecksum) (by simp [ht])
      (by decide)

theorem ContentEffect.endsWithOwnStatus {b : Byte} {s t : State} (h : ContentEffect b s t) (hs : s.AnswersOk) :
    t.EndsWithOwnStatus := by
  cases h with
  | checksumPair out _ _ _ hout => exact hout.endsWithOwnStatus hs rfl
  | _ => exact endsWithOwnStatus_of_trace rfl (by decide)

theorem RxEffect.endsWithOwnStatus {i : Instr} {b : Byte} {s t : State} (h : RxEffect i b s t) (hs : s.AnswersOk) :
    t.EndsWithOwnStatus := by
  cases h with
  | content _ _ _ hc => exact hc.endsWithOwnStatus hs
  | _ => exact endsWithOwnStatus_of_trace rfl (by decide)

theorem SendEffect.endsWithOwnStatus {p : List Byte} {s t : State} (h : SendEffect p s t) (hs : s.AnswersOk) :
    t.EndsWithOwnStatus := by
  cases h with
  | sinkFailed _ _ _ _ hne hc _ => exact absurd (hs.sink_eq_ok hc) hne
  | _ => exact endsWithOwnStatus_of_trace rfl (by decide)

theorem ResendEffect.endsWithOwnStatus {s t : State} (h : ResendEffect s t) (hs : s.AnswersOk) :
    t.EndsWithOwnStatus := by
  cases h with
  | sinkFailed _ _ _ _ hne hc _ => exact absurd (hs.sink_eq_ok hc) hne
  | _ => exact endsWithOwnStatus_of_trace rfl (by decide)

theorem readyStatus_code_le (s : State) : (readyStatus s).code.toNat ≤ 7 := by
  unfold readyStatus
  cases s.ackState <;> dsimp only
  case unset => split <;> decide
  all_goals decide

/-- Settles O55: every effect of a transaction ends with a status of its own, or with one the sink or the consumer
answered. -/
theorem blockReturnsNoReservedStatus : Obligations.BlockReturnsNoReservedStatus := by
  intro i s t hsink hcons h
  have hs : s.AnswersOk := ⟨hsink, hcons⟩
  cases i with
  | rxSom => exact (exec_rx_next rfl h).endsWithOwnStatus hs
  | rxAck => exact (exec_rx_next rfl h).endsWithOwnStatus hs
  | rxNak => exact (exec_rx_next rfl h).endsWithOwnStatus hs
  | rxHex _ => exact (exec_rx_next rfl h).endsWithOwnStatus hs
  | rxOther _ => exact (exec_rx_next rfl h).endsWithOwnStatus hs
  | cmdReady x =>
    rw [exec_cmdReady] at h
    cases h
    exact endsWithOwnStatus_of_trace rfl (readyStatus_code_le s)
  | cmdSend p => exact (execCmdSend_next h).endsWithOwnStatus hs
  | cmdResend x => exact (execCmdResend_next (x := x) h).endsWithOwnStatus hs

/-! ### TIME -/

/-- The same state with another sampled TIME. -/
def State.atTime (n : Nat) (s : State) : State := { s with time := n }

/-- The same answer of a call, in a state with another TIME. -/
def Called.atTime (n : Nat) : Called → Called
  | .returned c s => .returned c (s.atTime n)
  | .reentered => .reentered

/-- The same outcome, its next state with another TIME. -/
def outcomeAtTime (n : Nat) : Host.Outcome State Fault Refusal → Host.Outcome State Fault Refusal
  | .next s => .next (s.atTime n)
  | .fault f => .fault f
  | .refused r => .refused r

/-- A meaning that does not read TIME: at another TIME it has the same outcome, at that TIME. -/
def IgnoresTime (k : State → Host.Outcome State Fault Refusal) : Prop :=
  ∀ n s, k (s.atTime n) = outcomeAtTime n (k s)

theorem returnStatus_ignoresTime (c : Status) : IgnoresTime (returnStatus c) := fun _ _ => rfl

theorem emit_atTime (b : Byte) (n : Nat) (s : State) : emit b (s.atTime n) = (emit b s).atTime n := by
  unfold emit
  simp only [State.atTime]
  split <;> rfl

theorem deliver_atTime (p : List Byte) (n : Nat) (s : State) : deliver p (s.atTime n) = (deliver p s).atTime n := by
  unfold deliver
  simp only [State.atTime]
  split <;> rfl

theorem Called.thenOk_atTime {k : State → Host.Outcome State Fault Refusal} (hk : IgnoresTime k) (n : Nat) (r : Called) :
    (r.atTime n).thenOk k = outcomeAtTime n (r.thenOk k) := by
  cases r with
  | returned c s =>
    simp only [Called.atTime, Called.thenOk]
    split
    · exact hk n s
    · rfl
  | reentered => rfl

theorem Called.asStatus_atTime (n : Nat) (r : Called) : (r.atTime n).asStatus = outcomeAtTime n r.asStatus := by
  cases r <;> rfl

theorem deliverPayload_ignoresTime : IgnoresTime deliverPayload := by
  intro n s
  unfold deliverPayload
  simp only [State.atTime]
  split
  · rw [← Called.asStatus_atTime, ← deliver_atTime]; rfl
  · rfl

theorem checksumPair_ignoresTime (v : Byte) : IgnoresTime (checksumPair v) := by
  intro n s
  unfold checksumPair
  simp only [apply_ite (outcomeAtTime n), ← Called.thenOk_atTime deliverPayload_ignoresTime,
    ← Called.thenOk_atTime (returnStatus_ignoresTime _), ← emit_atTime]
  rfl

theorem completedPair_ignoresTime (v : Byte) : IgnoresTime (completedPair v) := by
  intro n s
  unfold completedPair lengthPair payloadPair
  simp only [apply_ite (outcomeAtTime n), ← checksumPair_ignoresTime v n s]
  rfl

theorem rxContent_ignoresTime (b : Byte) : IgnoresTime (rxContent b) := by
  intro n s
  unfold rxContent lowNibble
  rw [apply_ite (outcomeAtTime n), ← completedPair_ignoresTime]
  rfl

theorem recordResponse_ignoresTime (a : AckState) : IgnoresTime (recordResponse a) := by
  intro n s
  unfold recordResponse
  rw [apply_ite (outcomeAtTime n)]
  rfl

theorem contentOrResponse_ignoresTime (b : Byte) (a : AckState) :
    IgnoresTime fun s => if s.receiving then rxContent b s else recordResponse a s := by
  intro n s
  rw [apply_ite (outcomeAtTime n), ← rxContent_ignoresTime, ← recordResponse_ignoresTime]
  rfl

theorem contentOrJunk_ignoresTime (b : Byte) : IgnoresTime (contentOrJunk b) := by
  intro n s
  unfold contentOrJunk
  rw [apply_ite (outcomeAtTime n), ← rxContent_ignoresTime]
  rfl

theorem exec_rx_ignoresTime {i : Instr} (hi : rxByteOf i ≠ none) : IgnoresTime (exec i) := by
  cases i with
  | rxSom => exact fun _ _ => rfl
  | rxAck => exact contentOrResponse_ignoresTime 0x06 .ack
  | rxNak => exact contentOrResponse_ignoresTime 0x15 .nak
  | rxHex b => exact contentOrJunk_ignoresTime b
  | rxOther b => exact contentOrJunk_ignoresTime b
  | cmdReady _ => exact absurd rfl hi
  | cmdSend _ => exact absurd rfl hi
  | cmdResend _ => exact absurd rfl hi

/-- Settles O56. -/
theorem rxDoesNotDependOnTime : Obligations.RxDoesNotDependOnTime := by
  intro i s t n hi h
  have hexec := exec_rx_ignoresTime hi n s
  rw [h] at hexec
  exact hexec

/-- Settles O57. -/
theorem lowByteOfReadyAndResendIsIgnored : Obligations.LowByteOfReadyAndResendIsIgnored :=
  fun _ _ _ => ⟨rfl, rfl⟩

end Sys2Proof.Machine
end

section
/-! The receive transactions (41_receive.md): what each does in and outside a frame, what they leave unchanged, and what lists
of received bytes do to an idle receiver and to a frame of length 0. -/

namespace Sys2Proof.Machine

/-! ### The content path, one equation for each branch -/

theorem rxContent_of_no_nibble {s : State} (hn : s.nibValid = false) (b : Byte) :
    rxContent b s = returnStatus .ok { s with nib := hexVal b, nibValid := true } :=
  if_neg (by simp [hn])

/-- Inside a frame with a nibble pending, a content byte completes a pair (R106, R108). -/
theorem exec_pair {i : Instr} {b : Byte} {s : State} (hc : contentByte i = some b) (hr : s.receiving = true)
    (hn : s.nibValid = true) :
    exec i s = completedPair (pairValue s.nib (hexVal b)) { s with nibValid := false, nib := 0 } :=
  (exec_content hc hr).trans (if_pos hn)

/-- The first pair of a frame is its length (R109, R110). -/
theorem exec_lengthPair {i : Instr} {b : Byte} {s : State} (hc : contentByte i = some b) (hr : s.receiving = true)
    (hn : s.nibValid = true) (hl : s.lenValid = false) :
    exec i s = lengthPair (pairValue s.nib (hexVal b)) { s with nibValid := false, nib := 0 } :=
  (exec_pair hc hr hn).trans (if_pos hl)

/-- A pair below EXP_LEN - 1 is payload (R111). -/
theorem exec_payloadPair {i : Instr} {b : Byte} {s : State} (hc : contentByte i = some b) (hr : s.receiving = true)
    (hn : s.nibValid = true) (hl : s.lenValid = true) (hb : (s.bytesRead.toNat : Int) < (s.expLen.toNat : Int) - 1) :
    exec i s = payloadPair (pairValue s.nib (hexVal b)) { s with nibValid := false, nib := 0 } := by
  rw [exec_pair hc hr hn, completedPair, if_neg (by simp [hl]), if_pos hb]

/-- The pair at EXP_LEN - 1 is the checksum (R112, R113). -/
theorem exec_checksumPair {i : Instr} {b : Byte} {s : State} (hc : contentByte i = some b) (hat : AtChecksumPair s) :
    exec i s = checksumPair (pairValue s.nib (hexVal b)) { s with nibValid := false, nib := 0 } := by
  obtain ⟨hr, hn, hl, hb⟩ := hat
  rw [exec_pair hc hr hn, completedPair, if_neg (by simp [hl]), if_neg (by simp [hb]), if_pos hb]

/-- After a zero length byte a pair is discarded: the integer EXP_LEN - 1 is below every BYTES_READ (R114). -/
theorem exec_discardedPair {i : Instr} {b : Byte} {s : State} (hc : contentByte i = some b) (hr : s.receiving = true)
    (hn : s.nibValid = true) (hl : s.lenValid = true) (he : s.expLen = 0) :
    exec i s = returnStatus .ok { s with nibValid := false, nib := 0 } := by
  have hpast : (s.expLen.toNat : Int) - 1 < (s.bytesRead.toNat : Int) := by
    have hzero : s.expLen.toNat = 0 := by rw [he]; rfl
    omega
  rw [exec_pair hc hr hn, completedPair, if_neg (by simp [hl]), if_neg hpast.not_gt, if_neg hpast.ne']

/-! ### The reply to a checksum pair

The calls run in an updated state. Where a hypothesis speaks of the same field of `s`, `by exact` gives it once the goal has
fixed that state. -/

theorem exec_checksumPair_of_match {i : Instr} {b : Byte} {s : State} (hc : contentByte i = some b)
    (hat : AtChecksumPair s) (hv : pairValue s.nib (hexVal b) = s.cksum) :
    exec i s =
      (emit 0x06 { s with nibValid := false, nib := 0, receiving := false }).thenOk deliverPayload :=
  (exec_checksumPair hc hat).trans (if_pos hv)

theorem exec_checksumPair_of_mismatch {i : Instr} {b : Byte} {s : State} (hc : contentByte i = some b)
    (hat : AtChecksumPair s) (hv : pairValue s.nib (hexVal b) ≠ s.cksum) :
    exec i s =
      (emit 0x15 { s with nibValid := false, nib := 0, receiving := false }).thenOk (returnStatus .badChecksum) :=
  (exec_checksumPair hc hat).trans (if_neg hv)

/-- A byte the sink does not take ends the transaction with the sink's status. -/
theorem emit_thenOk_of_fails {s : State} {c : Status} {rest : List Answer} (hs : s.sink = .returns c :: rest)
    (hc : c ≠ .ok) (b : Byte) (k : State → Host.Outcome State Fault Refusal) :
    (emit b s).thenOk k = .next { s with sink := rest, trace := s.trace ++ [.offered b c, .returned c] } := by
  simp [emit, hs, Called.thenOk_failed hc, observe]

/-- A byte the sink takes lets the transaction go on. -/
theorem emit_thenOk_of_takes {s : State} (hs : SinkTakes 1 s) (b : Byte)
    (k : State → Host.Outcome State Fault Refusal) :
    (emit b s).thenOk k = k { s with sink := s.sink.drop 1, trace := s.trace ++ [.offered b .ok] } := by
  rw [emit_takes b hs, Called.thenOk_ok]

theorem deliverPayload_of_returns {s : State} {p : List Byte} {c : Status}
    (hp : Memory.readFrom s.rxBuf 0 (s.expLen.toNat - 1) = some p) (hc : s.consumer = .returns c) :
    deliverPayload s = .next { s with trace := s.trace ++ [.delivered p c, .returned c] } := by
  simp [deliverPayload, hp, deliver, hc, observe]

/-! ### Outside a frame -/

/-- The response an RX_ACK or an RX_NAK records. -/
def responseOf (i : Instr) : AckState := if i = .rxAck then .ack else .nak

theorem exec_response_of_idle {i : Instr} {s : State} (hi : i = .rxAck ∨ i = .rxNak) (hr : s.receiving = false) :
    exec i s = recordResponse (responseOf i) s := by
  obtain rfl | rfl := hi <;> exact if_neg (by simp [hr])

theorem acceptsResponse_iff {s : State} :
    acceptsResponse s = true ↔ s.ackState = .unset ∨ s.params.acceptUnsolicited = true := by
  simp [acceptsResponse]

/-- A response under the acceptance condition is recorded (R102, R103). -/
theorem exec_response_of_accepts {i : Instr} {s : State} (hi : i = .rxAck ∨ i = .rxNak) (hr : s.receiving = false)
    (h : s.ackState = .unset ∨ s.params.acceptUnsolicited = true) :
    exec i s = .next { s with ackState := responseOf i, trace := s.trace ++ [.returned .ok] } :=
  (exec_response_of_idle hi hr).trans (if_pos (acceptsResponse_iff.2 h))

/-- A response nobody waits for is Junk (R102, R103). -/
theorem exec_response_of_unsolicited {i : Instr} {s : State} (hi : i = .rxAck ∨ i = .rxNak) (hr : s.receiving = false)
    (ha : s.ackState ≠ .unset) (hu : s.params.acceptUnsolicited = false) :
    exec i s = .next { s with trace := s.trace ++ [.returned .junk] } :=
  (exec_response_of_idle hi hr).trans (if_neg (by simp [acceptsResponse_iff, ha, hu]))

theorem contentOrJunk_of_receiving {s : State} (hr : s.receiving = true) (b : Byte) :
    contentOrJunk b s = rxContent b s :=
  if_pos hr

theorem contentOrJunk_of_idle {s : State} (hr : s.receiving = false) (b : Byte) :
    contentOrJunk b s = .next { s with trace := s.trace ++ [.returned .junk] } :=
  if_neg (by simp [hr])

/-! ### Byte classes and received bytes -/

theorem isHexDigit_of_byteClass_other {b : Byte} (h : byteClass b = .other) : isHexDigit b = false := by
  unfold byteClass at h
  split_ifs at h with _ _ _ hhex
  exact Bool.eq_false_of_not_eq_true hhex

/-- Lenient decoding: a byte that is no digit counts 0 (R62). -/
theorem hexVal_of_not_isHexDigit {b : Byte} (h : isHexDigit b = false) : hexVal b = 0 := by
  simp only [isHexDigit, Bool.or_eq_false_iff, Bool.and_eq_false_iff, decide_eq_false_iff_not, ← not_and_or] at h
  obtain ⟨⟨hdec, hup⟩, hlow⟩ := h
  rw [hexVal, if_neg hdec, if_neg hup, if_neg hlow]

theorem rxByteOf_of_contentByte {i : Instr} {b : Byte} (hc : contentByte i = some b) : rxByteOf i = some b := by
  cases i with
  | rxSom => cases hc
  | _ => exact hc

/-- Every byte but the start marker is content inside a frame, ACK and NAK included (R100). -/
theorem contentByte_rxInstr {b : Byte} (hb : b ≠ 0x0A) : contentByte (rxInstr b) = some b := by
  unfold rxInstr byteClass
  split_ifs with hsom hack hnak
  · exact absurd hsom hb
  · rw [hack]; rfl
  · rw [hnak]; rfl
  · rfl
  · rfl

/-- A byte that is no 0x0A, ACK or NAK is an RX_HEX or an RX_OTHER (R60). -/
theorem exec_rxInstr_of_noise {b : Byte} (hb : b ≠ 0x0A ∧ b ≠ 0x06 ∧ b ≠ 0x15) (s : State) :
    exec (rxInstr b) s = contentOrJunk b s := by
  obtain ⟨hsom, hack, hnak⟩ := hb
  unfold rxInstr byteClass
  split_ifs with hsom' hack' hnak'
  · exact absurd hsom' hsom
  · exact absurd hack' hack
  · exact absurd hnak' hnak
  · rfl
  · rfl

theorem feedBytes_cons {b : Byte} {s t : State} (h : exec (rxInstr b) s = .next t) (bs : List Byte) :
    feedBytes (b :: bs) s = feedBytes bs t := by
  rw [feedBytes, List.map_cons, runInstrs, h, feedBytes]

/-! ### Lists of received bytes -/

/-- After a zero length byte each content byte only turns NIB_VALID over and returns Ok (R107, R114). -/
theorem exec_of_zero_length {i : Instr} {b : Byte} {s : State} (hc : contentByte i = some b) (hr : s.receiving = true)
    (hl : s.lenValid = true) (he : s.expLen = 0) :
    ∃ n, exec i s = .next { s with nib := n, nibValid := !s.nibValid, trace := s.trace ++ [.returned .ok] } := by
  cases hn : s.nibValid with
  | false => exact ⟨hexVal b, (exec_content hc hr).trans (rxContent_of_no_nibble hn b)⟩
  | true => exact ⟨0, exec_discardedPair hc hr hn hl he⟩

/-- NIB_VALID after one turn and `k` more is NIB_VALID after `k + 1`. -/
theorem not_xor_odd (v : Bool) (k : Nat) : ((!v) ^^ decide (k % 2 = 1)) = (v ^^ decide ((k + 1) % 2 = 1)) := by
  obtain hk | hk := Nat.mod_two_eq_zero_or_one k <;> cases v <;> simp [Nat.add_mod, hk]

/-- Settles O30, by induction on the bytes: each leaves RECEIVING, LEN_VALID and EXP_LEN as the next one needs them. -/
theorem zeroLengthFrameIsDeaf : Obligations.ZeroLengthFrameIsDeaf := by
  intro bs
  induction bs with
  | nil => exact fun s _ _ _ _ => ⟨s, s.nib, s.nibValid, rfl, by simp, by simp⟩
  | cons b bs ih =>
    intro s hr hl he hbs
    obtain ⟨hb, hrest⟩ := List.forall_mem_cons.1 hbs
    obtain ⟨n, hexec⟩ := exec_of_zero_length (contentByte_rxInstr hb) hr hl he
    obtain ⟨_, m, v, hrun, rfl, hv⟩ := ih { s with
      nib := n, nibValid := !s.nibValid, trace := s.trace ++ [.returned .ok] } hr hl he hrest
    refine ⟨_, m, v, (feedBytes_cons hexec bs).trans hrun, ?_, ?_⟩
    · simp [List.replicate_succ]
    · rw [hv, List.length_cons, not_xor_odd]

/-- Settles O33, by induction on the bytes: each returns Junk and leaves the block outside a frame. -/
theorem noiseOutsideAFrameIsJunk : Obligations.NoiseOutsideAFrameIsJunk := by
  intro bs
  induction bs with
  | nil => exact fun s _ _ => by simp [feedBytes, runInstrs]
  | cons b bs ih =>
    intro s hr hbs
    obtain ⟨hb, hrest⟩ := List.forall_mem_cons.1 hbs
    have hexec := (exec_rxInstr_of_noise hb s).trans (contentOrJunk_of_idle hr b)
    rw [feedBytes_cons hexec, ih { s with trace := s.trace ++ [.returned .junk] } hr hrest]
    simp [List.replicate_succ]

/-! ### What an RX transaction shows the environment -/

/-- An RX transaction shows its status alone, or is a checksum pair and shows what one does (R115). -/
theorem RxEffect.trace_eq {i : Instr} {b : Byte} {s t : State} (h : RxEffect i b s t) :
    (∃ c, t.trace = s.trace ++ [.returned c]) ∨
      contentByte i = some b ∧ AtChecksumPair s ∧
        ∃ out, ChecksumOutputs (pairValue s.nib (hexVal b)) s out ∧ t.trace = s.trace ++ out := by
  cases h with
  | content _ hc hr he =>
    cases he with
    | checksumPair out hn hl hb hout => exact .inr ⟨hc, ⟨hr, hn, hl, hb⟩, out, hout, rfl⟩
    | _ => exact .inl ⟨_, rfl⟩
  | _ => exact .inl ⟨_, rfl⟩

theorem ChecksumOutputs.offeredBytes_eq {v : Byte} {s : State} {out : List Output} (h : ChecksumOutputs v s out) :
    offeredBytes out = [if v = s.cksum then 0x06 else 0x15] := by
  cases h with
  | sinkFailed _ _ _ => rfl
  | delivered _ _ hv _ _ => rw [if_pos hv]; rfl
  | refusedFrame hv => rw [if_neg hv]; rfl

theorem ChecksumOutputs.match_of_delivers {v : Byte} {s : State} {out : List Output} (h : ChecksumOutputs v s out)
    (hd : deliveredPayloads out ≠ []) : v = s.cksum := by
  cases h with
  | sinkFailed _ _ _ => exact absurd rfl hd
  | delivered _ _ hv _ _ => exact hv
  | refusedFrame _ => exact absurd rfl hd

/-- Settles O31: a transaction that is no checksum pair shows nothing but its status. -/
theorem onlyAChecksumPairReplies : Obligations.OnlyAChecksumPairReplies := by
  intro i b s t hb h
  obtain ⟨c, htr⟩ | ⟨hc, hat, out, hout, htr⟩ := (exec_rx_next hb h).trace_eq
  · exact ⟨_, htr, fun hshown => hshown.elim (absurd rfl) (absurd rfl)⟩
  · exact ⟨out, htr, fun _ => ⟨hc, hat, hout.offeredBytes_eq, hout.match_of_delivers⟩⟩

/-! ### What RX transactions leave unchanged -/

theorem storedIndex_of_payload {s : State} (hn : s.nibValid = true) (hl : s.lenValid = true)
    (hb : (s.bytesRead.toNat : Int) < (s.expLen.toNat : Int) - 1) : storedIndex s = some s.bytesRead.toNat :=
  if_pos ⟨hn, hl, hb⟩

theorem ContentEffect.sameEnvironment {b : Byte} {s t : State} (h : ContentEffect b s t) : SameEnvironment s t := by
  cases h <;> exact ⟨rfl, rfl, rfl, rfl⟩

theorem ContentEffect.sameTransmit {b : Byte} {s t : State} (h : ContentEffect b s t) :
    t.ackState = s.ackState ∧ SameTransmit s t := by
  cases h <;> exact ⟨rfl, rfl, rfl, rfl⟩

/-- Only the reply to a checksum pair takes an answer of the sink. -/
theorem ContentEffect.sink_eq {b : Byte} {s t : State} (h : ContentEffect b s t) (hr : s.receiving = true) :
    t.sink = s.sink ∨ AtChecksumPair s ∧ t.sink = s.sink.drop 1 := by
  cases h with
  | checksumPair _ hn hl hb _ => exact .inr ⟨⟨hr, hn, hl, hb⟩, rfl⟩
  | _ => exact .inl rfl

/-- Only a payload pair writes RXBUF, at BYTES_READ (R111, R41). -/
theorem ContentEffect.read_rxBuf {b : Byte} {s t : State} (h : ContentEffect b s t) {a : Nat}
    (ha : storedIndex s ≠ some a) : Memory.read t.rxBuf a = Memory.read s.rxBuf a := by
  cases h with
  | payloadPair hn hl hb _ =>
    refine Memory.read_write_other _ _ fun haddr => ha ?_
    rw [storedIndex_of_payload hn hl hb, haddr]
  | _ => rfl

/-- Settles O49: each case of what a content byte does keeps each of these. -/
theorem contentByteFrame : Obligations.ContentByteFrame := by
  intro i b s t hc hr h
  have heff : ContentEffect b s t := rxContent_next (exec_content hc hr ▸ h)
  obtain ⟨hack, htx⟩ := heff.sameTransmit
  obtain ⟨htxBuf, -⟩ := heff.sameRetained
  exact ⟨hack, htx, fun _ => by rw [htxBuf], heff.sameEnvironment, heff.sink_eq hr, fun _ ha => heff.read_rxBuf ha⟩

/-- Outside a frame a content byte writes at most ACK_STATE, and returns Ok or Junk (R102 to R105). -/
theorem RxEffect.eq_of_idle {i : Instr} {b : Byte} {s t : State} (h : RxEffect i b s t) (hc : contentByte i = some b)
    (hr : s.receiving = false) :
    ∃ a c, t = { s with ackState := a, trace := s.trace ++ [.returned c] } ∧
      (i ≠ .rxAck → i ≠ .rxNak → a = s.ackState) ∧ (c = .ok ∨ c = .junk) := by
  cases h with
  | opened hi => rw [hi] at hc; cases hc
  | content _ _ hr' _ => rw [hr] at hr'; cases hr'
  | recorded a _ _ hi _ =>
    refine ⟨a, .ok, rfl, fun hack hnak => ?_, .inl rfl⟩
    obtain ⟨hi, -⟩ | ⟨hi, -⟩ := hi
    · exact absurd hi hack
    · exact absurd hi hnak
  | noise _ _ => exact ⟨s.ackState, .junk, rfl, fun _ _ => rfl, .inr rfl⟩

/-- Settles O48: every other field of the next state is the old one. -/
theorem outOfFrameByteFrame : Obligations.OutOfFrameByteFrame := by
  intro i b s t hc hr h
  obtain ⟨a, c, rfl, ha, hstatus⟩ := (exec_rx_next (rxByteOf_of_contentByte hc) h).eq_of_idle hc hr
  refine ⟨⟨rfl, rfl, rfl, rfl, rfl, rfl, rfl⟩, ⟨rfl, rfl, rfl⟩, fun _ => rfl, fun _ => rfl, ⟨rfl, rfl, rfl, rfl⟩, rfl,
    ha, ?_⟩
  obtain rfl | rfl := hstatus
  · exact .inl rfl
  · exact .inr rfl

/-! ### The rules, one transaction each -/

/-- Settles O20. -/
theorem rxSomOpensAFrame : Obligations.RxSomOpensAFrame := fun _ => rfl

/-- Settles O47. -/
theorem rxSomFrame : Obligations.RxSomFrame := by
  intro s t h
  obtain rfl := Host.Outcome.next.inj ((rxSomOpensAFrame s).symm.trans h)
  exact ⟨rfl, ⟨rfl, rfl, rfl⟩, fun _ => rfl, fun _ => rfl, ⟨rfl, rfl, rfl, rfl⟩, rfl⟩

/-- Settles O21. -/
theorem rxAckRecordsAResponse : Obligations.RxAckRecordsAResponse := fun _ =>
  ⟨fun hr => ⟨exec_content rfl hr, rfl⟩, exec_response_of_accepts (.inl rfl), exec_response_of_unsolicited (.inl rfl)⟩

/-- Settles O22. -/
theorem rxNakRecordsAResponse : Obligations.RxNakRecordsAResponse := fun _ =>
  ⟨fun hr => ⟨exec_content rfl hr, rfl⟩, exec_response_of_accepts (.inr rfl), exec_response_of_unsolicited (.inr rfl)⟩

/-- Settles O34: a recorded response is not Unset, so the next one is not accepted. -/
theorem firstResponseIsKept : Obligations.FirstResponseIsKept := by
  intro s t i j hr ha hu hi hj h
  rw [exec_response_of_accepts hi hr (.inl ha)] at h
  obtain rfl := Host.Outcome.next.inj h
  have hset : responseOf i ≠ .unset := by obtain rfl | rfl := hi <;> decide
  exact ⟨rfl, exec_response_of_unsolicited hj hr hset hu⟩

/-- Settles O23. -/
theorem otherBytesAreContentOrJunk : Obligations.OtherBytesAreContentOrJunk := fun b _ =>
  ⟨fun hother => hexVal_of_not_isHexDigit (isHexDigit_of_byteClass_other hother),
    fun hr => ⟨contentOrJunk_of_receiving hr b, contentOrJunk_of_receiving hr b⟩,
    fun hr => ⟨contentOrJunk_of_idle hr b, contentOrJunk_of_idle hr b⟩⟩

/-- Settles O24. -/
theorem highNibbleIsStored : Obligations.HighNibbleIsStored := by
  intro i b s hc hr hn
  rw [exec_content hc hr, rxContent_of_no_nibble hn, returnStatus_next]

/-- Settles O25. -/
theorem tooBigLengthEndsTheFrame : Obligations.TooBigLengthEndsTheFrame := by
  intro i b s hc hr hn hl hbig
  rw [exec_lengthPair hc hr hn hl, lengthPair, if_pos hbig, returnStatus_next]

/-- Settles O26. -/
theorem lengthPairSeedsTheChecksum : Obligations.LengthPairSeedsTheChecksum := by
  intro i b s hc hr hn hl hfits
  rw [exec_lengthPair hc hr hn hl, lengthPair, if_neg (Nat.not_lt.2 hfits), returnStatus_next]

/-- Settles O27. -/
theorem payloadPairIsStored : Obligations.PayloadPairIsStored := by
  intro i b s hc hr hn hl hb hi
  have hindex : s.bytesRead.toNat < rxBufSize := hi
  refine ⟨_, ?_, rfl, Memory.read_write_same _ _ _, BitVec.toNat_add _ _, toNat_bytesRead_succ hindex⟩
  rw [exec_payloadPair hc hr hn hl hb, payloadPair, if_pos hindex, returnStatus_next]

/-- Settles O28: the sink's answer decides whether the payload is delivered after the ACK. -/
theorem matchingChecksumAcksAndDelivers : Obligations.MatchingChecksumAcksAndDelivers := by
  intro i b s hc hat hv
  rw [exec_checksumPair_of_match hc hat hv]
  refine ⟨fun c rest hs hne => ?_, fun p c hs hp hcons => ?_⟩
  · exact emit_thenOk_of_fails (by exact hs) hne _ _
  · rw [emit_thenOk_of_takes (by exact hs), deliverPayload_of_returns (by exact hp) (by exact hcons)]
    simp

/-- Settles O29: the sink's answer decides which status is returned after the NAK. -/
theorem mismatchingChecksumNaks : Obligations.MismatchingChecksumNaks := by
  intro i b s hc hat hv
  rw [exec_checksumPair_of_mismatch hc hat hv]
  refine ⟨fun c rest hs hne => ?_, fun hs => ?_⟩
  · exact emit_thenOk_of_fails (by exact hs) hne _ _
  · rw [emit_thenOk_of_takes (by exact hs)]
    simp

end Sys2Proof.Machine
end

section
/-! The ready-to-send query (42_ready_to_send.md): what READY reports for each ACK_STATE and the elapsed time it compares with
T_TIMEOUT; and what READY, SEND and RESEND leave unchanged. -/

namespace Sys2Proof.Machine

/-! ### The response window -/

/-- `Elapsed` is the mathematical difference modulo 2^TIME_W, never negative (R141). -/
theorem cast_elapsed (pr : Params) (now last : Nat) :
    (elapsed pr now last : Int) = ((now : Int) - (last : Int)) % 2 ^ pr.timeW := by
  rw [elapsed, Params.timeMod, Nat.cast_pow, Nat.cast_ofNat]
  exact Int.toNat_of_nonneg (Int.emod_nonneg _ (by positivity))

theorem windowExpired_iff (s : State) :
    windowExpired s = true ↔ (s.params.tTimeout : Int) ≤ ((s.time : Int) - (s.lastSentAt : Int)) % 2 ^ s.params.timeW := by
  rw [windowExpired, decide_eq_true_iff, ← cast_elapsed, Nat.cast_le]

/-- Below 2^TIME_W the time since the last send is exact, wherever TIME wrapped in between (R141, R288). -/
theorem elapsed_of_lt_timeMod (pr : Params) (sent : Nat) {d : Nat} (hd : d < 2 ^ pr.timeW) :
    elapsed pr ((sent + d) % 2 ^ pr.timeW) (sent % 2 ^ pr.timeW) = d := by
  have hwrap : (elapsed pr ((sent + d) % 2 ^ pr.timeW) (sent % 2 ^ pr.timeW) : Int) = d := by
    rw [cast_elapsed]
    push_cast
    rw [← Int.sub_emod, add_sub_cancel_left]
    exact Int.emod_eq_of_lt d.cast_nonneg (by exact_mod_cast hd)
  exact_mod_cast hwrap

/-! ### What READY reports -/

theorem readyStatus_of_unset {s : State} (hs : s.ackState = .unset) :
    readyStatus s = if windowExpired s then .timeout else .wait := by
  rw [readyStatus, hs]

theorem exec_cmdReady_of_status {s : State} {c : Status} (h : readyStatus s = c) (x : Byte) :
    exec (.cmdReady x) s = .next { s with trace := s.trace ++ [.returned c] } := by
  rw [exec_cmdReady, h, returnStatus_next]

/-- Settles O35: one value of the status for each ACK_STATE, and for Unset one on each side of T_TIMEOUT. -/
theorem readyReportsTheResponseState : Obligations.ReadyReportsTheResponseState := by
  intro x s
  refine ⟨fun hidle => ?_, fun hack => ?_, fun hnak => ?_, fun hunset hlate => ?_, fun hunset hearly => ?_⟩ <;>
    apply exec_cmdReady_of_status
  · rw [readyStatus, hidle]
  · rw [readyStatus, hack]
  · rw [readyStatus, hnak]
  · rw [readyStatus_of_unset hunset, if_pos ((windowExpired_iff s).2 hlate)]
  · rw [readyStatus_of_unset hunset, if_neg fun hexp => hearly.not_ge ((windowExpired_iff s).1 hexp)]

/-- Settles O36: `Elapsed` is `d` itself. -/
theorem windowCountsTimeSinceTheLastSend : Obligations.WindowCountsTimeSinceTheLastSend := by
  intro x s sent d hunset hlast htime hd
  have helapsed : elapsed s.params s.time s.lastSentAt = d := by
    rw [htime, hlast, elapsed_of_lt_timeMod _ _ hd]
  apply exec_cmdReady_of_status
  simp only [readyStatus_of_unset hunset, windowExpired, helapsed, decide_eq_true_eq]

/-! ### What READY, SEND and RESEND leave unchanged -/

/-- The receive side and the environment: the receive registers, RXBUF, and what no transaction writes. -/
def SameReceiveSide (s t : State) : Prop := SameReceive s t ∧ SameBytes s.rxBuf t.rxBuf ∧ SameEnvironment s t

/-- A state that differs in the transmit registers, TXBUF, the sink's answers and the trace alone. -/
theorem sameReceiveSide_of_transmit (s : State) (buf : Memory) (len : Byte) (a : AckState) (last : Nat) (n : Byte)
    (sk : List Answer) (tr : List Output) :
    SameReceiveSide s { s with
      txBuf := buf, txLen := len, ackState := a, lastSentAt := last, attempts := n, sink := sk, trace := tr } :=
  ⟨⟨rfl, rfl, rfl, rfl, rfl, rfl, rfl⟩, fun _ => rfl, rfl, rfl, rfl, rfl⟩

theorem SendEffect.sameReceiveSide {p : List Byte} {s t : State} (h : SendEffect p s t) : SameReceiveSide s t := by
  cases h <;> apply sameReceiveSide_of_transmit

theorem ResendEffect.sameReceiveSide {s t : State} (h : ResendEffect s t) : SameReceiveSide s t := by
  cases h <;> apply sameReceiveSide_of_transmit

/-- Settles O50: each case of what a command does keeps the receive side. -/
theorem commandsLeaveTheReceiveSide : Obligations.CommandsLeaveTheReceiveSide := by
  intro i s t hi h
  cases i with
  | cmdReady x =>
    obtain rfl := Host.Outcome.next.inj h
    exact sameReceiveSide_of_transmit s _ _ _ _ _ _ _
  | cmdSend p => exact (execCmdSend_next h).sameReceiveSide
  | cmdResend x => exact (execCmdResend_next (x := x) h).sameReceiveSide
  | rxSom | rxAck | rxNak | rxHex _ | rxOther _ => cases hi

/-- A SEND stores at most its frame, from entry 0 on (R162, R42). -/
theorem SendEffect.read_txBuf {p : List Byte} {s t : State} (h : SendEffect p s t) {a : Nat}
    (ha : (txFrame s.params p).length ≤ a) : Memory.read t.txBuf a = Memory.read s.txBuf a := by
  cases h with
  | sent _ _ _ => exact Memory.read_writeFrom_outside _ _ _ (.inr (by omega))
  | _ => rfl

/-- A SEND that does not end in Ok opens no window (R161, R163). -/
theorem SendEffect.sameTransmit_or_ok {p : List Byte} {s t : State} (h : SendEffect p s t) :
    SameTransmit s t ∧ t.ackState = s.ackState ∨ t.trace.getLast? = some (.returned .ok) := by
  cases h with
  | sent _ _ _ => exact .inr List.getLast?_concat
  | _ => exact .inl ⟨⟨rfl, rfl, rfl⟩, rfl⟩

/-- A RESEND that does not end in Ok restarts no window (R163, R164). -/
theorem ResendEffect.sameTransmit_or_ok {s t : State} (h : ResendEffect s t) :
    SameTransmit s t ∧ t.ackState = s.ackState ∨ t.trace.getLast? = some (.returned .ok) := by
  cases h with
  | resent _ _ _ _ => exact .inr List.getLast?_concat
  | _ => exact .inl ⟨⟨rfl, rfl, rfl⟩, rfl⟩

/-- Settles O51: only a SEND or a RESEND that ends in Ok writes the transmit side. -/
theorem commandsTransmitFrame : Obligations.CommandsTransmitFrame := by
  refine fun s t => ⟨fun x h => ?_, fun p h => ?_, fun x h => ?_⟩
  · obtain rfl := Host.Outcome.next.inj h
    exact ⟨⟨rfl, rfl, rfl⟩, rfl, fun _ => rfl, rfl⟩
  · have heff : SendEffect p s t := execCmdSend_next h
    refine ⟨fun a ha => heff.read_txBuf ha, fun hfailed => ?_⟩
    obtain ⟨hbuf, -⟩ := heff.sameRetained_or_ok.resolve_right hfailed
    obtain ⟨htx, hack⟩ := heff.sameTransmit_or_ok.resolve_right hfailed
    exact ⟨htx, hack, fun _ => by rw [hbuf]⟩
  · have heff : ResendEffect s t := execCmdResend_next (x := x) h
    obtain ⟨hbuf, hlen⟩ := heff.sameRetained
    exact ⟨fun _ => by rw [hbuf], hlen, heff.sameTransmit_or_ok.resolve_right⟩

end Sys2Proof.Machine
end

section
/-! The transmit commands (43_transmit.md): what a SEND and a RESEND do when the payload is too big, when the sink takes every
byte, when it fails on one, and when there is nothing to replay. -/

namespace Sys2Proof.Machine

/-! ### The sink fails on a byte -/

/-- A byte of a list that the sink does not take ends the transaction with the sink's status, no later byte offered. -/
theorem emitAll_thenOk_of_fails {f : List Byte} {s : State} {k : Nat} {b : Byte} {c : Status} {rest : List Answer}
    (hb : f[k]? = some b) (hc : c ≠ .ok) (hs : s.sink = List.replicate k (.returns .ok) ++ .returns c :: rest)
    (next : State → Host.Outcome State Fault Refusal) :
    (emitAll f s).thenOk next = .next { s with
      sink := rest, trace := s.trace ++ takenBytes (f.take k) ++ [.offered b c, .returned c] } := by
  rw [emitAll_fails hb hc hs, Called.thenOk_failed hc, returnStatus_next, List.append_assoc _ [_] [_]]
  rfl

/-! ### SEND -/

theorem execCmdSend_of_tooBig {p : List Byte} {s : State} (hp : s.params.maxMessageLength < p.length) :
    execCmdSend p s = returnStatus .messageTooBig s := if_pos hp

theorem execCmdSend_of_fits {p : List Byte} {s : State} (hp : p.length ≤ s.params.maxMessageLength) :
    execCmdSend p s = sendFrame (txFrame s.params p) s := if_neg hp.not_gt

/-- A retained frame is as long as TX_LEN says and stands in TXBUF from entry 0 on (R28). -/
theorem State.Retains.reads {f : List Byte} {s : State} (h : s.Retains f) :
    s.txLen.toNat = f.length ∧ ∀ k, k < f.length → Memory.read s.txBuf k = f[k]? := by
  obtain ⟨-, hread⟩ := h
  obtain ⟨hlen, hbyte⟩ := (Memory.readFrom_eq_some_iff _ _ _ _).1 hread
  exact ⟨hlen.symm, fun k hk => by simpa using hbyte k (hlen ▸ hk)⟩

/-- Settles O39: the state retained after the frame was taken, whose TXBUF reads back as the frame. -/
theorem sendTransmitsAndRetainsTheFrame : Obligations.SendTransmitsAndRetainsTheFrame := by
  intro p s hlegal hp hsink
  exact ⟨_, execCmdSend_takes hp hsink, rfl, (retainFrame_retains hlegal hp _).reads⟩

/-- Settles O40: `emitAll` ends the SEND before anything is retained. -/
theorem sendStopsAtASinkFailure : Obligations.SendStopsAtASinkFailure := by
  intro p s k c b rest hp hb hc hs
  exact (execCmdSend_of_fits hp).trans (emitAll_thenOk_of_fails hb hc hs _)

/-- Settles O38: the two sides of the size check. At the bound the frame fits TXBUF. -/
theorem sendSizeIsCheckedFirst : Obligations.SendSizeIsCheckedFirst :=
  fun _ _ => ⟨execCmdSend_of_tooBig, fun _ hp hsink => ⟨_, execCmdSend_takes hp.le hsink, rfl⟩⟩

/-! ### RESEND -/

theorem execCmdResend_of_nothingRetained {s : State} (h0 : s.txLen = 0) (x : Byte) :
    execCmdResend x s = returnStatus .ok s := if_pos h0

/-- A RESEND of a retained frame emits the frame and then restarts the window (R164). -/
theorem execCmdResend_of_retains {f : List Byte} {s : State} (hf : s.Retains f) (x : Byte) :
    execCmdResend x s = (emitAll f s).thenOk fun t => returnStatus .ok (restartWindow t) := by
  obtain ⟨hne, hread⟩ := hf
  rw [execCmdResend, if_neg hne, hread]

/-- R164's min(255, ATTEMPTS + 1) fits ATTEMPTS' 8 bits. -/
theorem toNat_nextAttempts (a : Byte) : (nextAttempts a).toNat = min 255 (a.toNat + 1) := by
  rw [nextAttempts, BitVec.toNat_ofNat]
  exact Nat.mod_eq_of_lt (by omega)

/-- A retained frame with a byte in it is not empty, so TX_LEN is not 0. -/
theorem State.retains_of_getElem? {f : List Byte} {s : State} {k : Nat} {b : Byte}
    (hread : Memory.readFrom s.txBuf 0 s.txLen.toNat = some f) (hb : f[k]? = some b) : s.Retains f := by
  have hk : k < f.length := (List.getElem?_eq_some_iff.1 hb).1
  rw [Memory.readFrom_length hread] at hk
  exact ⟨fun h0 => by simp [h0] at hk, hread⟩

/-- Settles O42: the window restarts after every retained byte was taken. -/
theorem resendReplaysAndRestartsTheWindow : Obligations.ResendReplaysAndRestartsTheWindow := by
  intro x s f hne hread hsink
  exact ⟨_, execCmdResend_takes ⟨hne, hread⟩ hsink x, rfl, toNat_nextAttempts s.attempts⟩

/-- Settles O43: `emitAll` ends the RESEND before the window restarts. -/
theorem resendStopsAtASinkFailure : Obligations.ResendStopsAtASinkFailure := by
  intro x s f k c b rest hread hb hc hs
  exact (execCmdResend_of_retains (State.retains_of_getElem? hread hb) x).trans (emitAll_thenOk_of_fails hb hc hs _)

/-- Settles O41. -/
theorem resendWithNothingRetained : Obligations.ResendWithNothingRetained :=
  fun x _ h0 => execCmdResend_of_nothingRetained h0 x

end Sys2Proof.Machine
end

section
/-! The reference host (45_reference_host_queue.md): what Q_ENQUEUE does to the queue (R201). -/

namespace Sys2Proof.Machine

/-- The queue with an entry more at its tail, (HEAD + COUNT) mod 8. -/
def HostQueue.append (e : QueueEntry) (q : HostQueue) : HostQueue :=
  { q with qbuf := q.qbuf.set (q.slot q.count) e, count := q.count + 1 }

theorem HostQueue.append_read_tail (e : QueueEntry) (q : HostQueue) :
    (q.append e).qbuf[q.slot q.count] = e := Vector.getElem_set_self _

/-- Only the tail is written. -/
theorem HostQueue.append_read_ne_tail (e : QueueEntry) {q : HostQueue} {k : Fin 8} (hk : k ≠ q.slot q.count) :
    (q.append e).qbuf[k] = q.qbuf[k] :=
  Vector.getElem_set_ne (q.slot q.count).isLt k.isLt (Fin.val_ne_of_ne hk.symm)

theorem enqueue_of_full {q : HostQueue} (h : q.count = queueCapacity) (payload : List Byte) (completion : Nat) :
    enqueue payload completion q = (.queueFull, q) := if_pos h

theorem enqueue_of_not_full {q : HostQueue} (h : q.count ≠ queueCapacity) (payload : List Byte) (completion : Nat) :
    enqueue payload completion q =
      (.ok, q.append { payload := payload, completion := completion, attempts := 0 }) := if_neg h

/-- Settles O58: the two sides of the capacity check; below it, the new queue is the old one with the entry at its tail. -/
theorem enqueueOnAFullQueueChangesNothing : Obligations.EnqueueOnAFullQueueChangesNothing := by
  intro payload completion q
  refine ⟨fun hfull => enqueue_of_full hfull payload completion, fun hroom => ?_⟩
  exact ⟨_, enqueue_of_not_full hroom.ne payload completion, rfl, rfl, rfl, rfl,
    q.append_read_tail _, fun _ hk => HostQueue.append_read_ne_tail _ hk⟩

end Sys2Proof.Machine
end

section
/-! Statuses and what is no transaction (60_exceptions.md): a transaction shows its calls and then one status, the form in
which the block raises anything (R240, R243); with nothing presented it holds its state (R249), and the events that are no
transaction are directives or are refused (I10). -/

namespace Sys2Proof.Machine

/-! ### The one status of a transaction -/

/-- What a transaction shows: outputs none of which is a status, then one status. -/
def ShowsOneStatus (out : List Output) : Prop :=
  ∃ calls c, out = calls ++ [.returned c] ∧ returnedStatuses calls = []

theorem showsOneStatus_singleton (c : Status) : ShowsOneStatus [.returned c] := ⟨[], c, rfl, rfl⟩

/-- An offered byte is no status. -/
theorem showsOneStatus_of_offered {ext : List Output} (h : ∀ o ∈ ext, ∃ b d, o = .offered b d) (c : Status) :
    ShowsOneStatus (ext ++ [.returned c]) := by
  refine ⟨ext, c, rfl, List.filterMap_eq_nil_iff.2 fun o ho => ?_⟩
  obtain ⟨b, d, rfl⟩ := h o ho
  rfl

theorem offered_of_mem_takenBytes {f : List Byte} {o : Output} (h : o ∈ takenBytes f) : ∃ b d, o = .offered b d := by
  obtain ⟨b, -, rfl⟩ := List.mem_map.1 h
  exact ⟨b, .ok, rfl⟩

/-- A reply, a delivery if there is one, and the status (R112, R113). -/
theorem ChecksumOutputs.showsOneStatus {v : Byte} {s : State} {out : List Output} (h : ChecksumOutputs v s out) :
    ShowsOneStatus out := by
  cases h with
  | sinkFailed c _ _ => exact ⟨[.offered _ c], c, rfl, rfl⟩
  | delivered p c _ _ _ => exact ⟨[.offered _ .ok, .delivered p c], c, rfl, rfl⟩
  | refusedFrame _ => exact ⟨[.offered _ .ok], .badChecksum, rfl, rfl⟩

theorem RxEffect.showsOneStatus {i : Instr} {b : Byte} {s t : State} (h : RxEffect i b s t) :
    ∃ out, t.trace = s.trace ++ out ∧ ShowsOneStatus out := by
  obtain ⟨c, htr⟩ | ⟨-, -, out, hout, htr⟩ := h.trace_eq
  · exact ⟨_, htr, showsOneStatus_singleton c⟩
  · exact ⟨out, htr, hout.showsOneStatus⟩

theorem SendEffect.showsOneStatus {p : List Byte} {s t : State} (h : SendEffect p s t) :
    ∃ out, t.trace = s.trace ++ out ∧ ShowsOneStatus out := by
  cases h with
  | tooBig _ => exact ⟨_, rfl, showsOneStatus_singleton _⟩
  | sinkFailed c _ _ _ _ _ hoff => exact ⟨_, List.append_assoc .., showsOneStatus_of_offered hoff c⟩
  | sent _ _ _ =>
    exact ⟨_, List.append_assoc .., showsOneStatus_of_offered (fun _ => offered_of_mem_takenBytes) .ok⟩

theorem ResendEffect.showsOneStatus {s t : State} (h : ResendEffect s t) :
    ∃ out, t.trace = s.trace ++ out ∧ ShowsOneStatus out := by
  cases h with
  | nothingRetained _ => exact ⟨_, rfl, showsOneStatus_singleton _⟩
  | sinkFailed c _ _ _ _ _ hoff => exact ⟨_, List.append_assoc .., showsOneStatus_of_offered hoff c⟩
  | resent _ _ _ _ =>
    exact ⟨_, List.append_assoc .., showsOneStatus_of_offered (fun _ => offered_of_mem_takenBytes) .ok⟩

/-- Every transaction that goes on shows one status, after all it emits and delivers (R243). -/
theorem exec_showsOneStatus {i : Instr} {s t : State} (h : exec i s = .next t) :
    ∃ out, t.trace = s.trace ++ out ∧ ShowsOneStatus out := by
  cases i with
  | rxSom | rxAck | rxNak | rxHex _ | rxOther _ => exact (exec_rx_next rfl h).showsOneStatus
  | cmdReady x =>
    rw [exec_cmdReady] at h
    cases h
    exact ⟨_, rfl, showsOneStatus_singleton _⟩
  | cmdSend p => exact (execCmdSend_next h).showsOneStatus
  | cmdResend x => exact (execCmdResend_next (x := x) h).showsOneStatus

/-- Settles O52: the status comes after outputs that are offers and deliveries. -/
theorem exactlyOneStatusPerTransaction : Obligations.ExactlyOneStatusPerTransaction := by
  intro i s t h
  obtain ⟨_, htr, calls, c, rfl, hcalls⟩ := exec_showsOneStatus h
  exact ⟨calls, c, by rw [htr, List.append_assoc], hcalls⟩

/-! ### Steps that run no transaction -/

theorem step_of_nothing_pending {s : State} (h : s.pending = []) : step s = .next s := by
  rw [step, fetch, h]

theorem fetch_of_pending {s : State} {e : Event} {rest : List Event} (h : s.pending = e :: rest) :
    fetch s = takeEvent e { s with pending := rest } := by
  rw [fetch, h]

/-- A directive's step is the state it leads to (R72). -/
theorem step_of_directive {s t : State} {e : Event} {rest : List Event} (h : s.pending = e :: rest)
    (he : takeEvent e { s with pending := rest } = .directive t) : step s = .next t := by
  rw [step, fetch_of_pending h, he]

theorem step_of_refused_event {s : State} {e : Event} {rest : List Event} {r : Refusal} (h : s.pending = e :: rest)
    (he : takeEvent e { s with pending := rest } = .refuse r) : step s = .refused r := by
  rw [step, fetch_of_pending h, he]

theorem present_of_decode_error {w : CmdWord} {payload : List Byte} {e : DecodeError} (h : decode w payload = .error e)
    (now : Nat) (s : State) : present w payload now s = .refuse (.notATransaction e) := by
  rw [present, h]

/-- Settles O19: one clause for each event that is no transaction, and one for what decodes to none. -/
theorem stepWithoutATransaction : Obligations.StepWithoutATransaction := by
  refine fun s => ⟨step_of_nothing_pending, ?sink, ?consumer, ?overlapping, ?noTransaction⟩
  case sink => exact fun _ _ h => step_of_directive h rfl
  case consumer => exact fun _ _ h => step_of_directive h rfl
  case overlapping => exact fun _ h => step_of_refused_event h rfl
  case noTransaction => exact fun _ _ now _ _ h hdec => step_of_refused_event h (present_of_decode_error hdec now _)

end Sys2Proof.Machine
end

section
/-! Reset and hazards (70_reset_and_hazards.md): a RESET and the first transactions after it (R280), and re-entry from the
sink or the consumer, which is refused and is the only thing refused (R285, I9). -/

namespace Sys2Proof.Machine

/-! ### A call that re-enters -/

theorem emit_thenOk_of_reenters {s : State} {rest : List Answer} (hs : s.sink = .reenters :: rest) (b : Byte)
    (k : State → Host.Outcome State Fault Refusal) : (emit b s).thenOk k = .refused .reentrantCall := by
  rw [emit, hs, Called.thenOk_reentered]

/-- A sink that re-enters on a byte of a list leaves the transaction no meaning, whatever was to follow. -/
theorem emitAll_thenOk_of_reenters {f : List Byte} {s : State} {k : Nat} {rest : List Answer} (hk : k < f.length)
    (hs : s.sink = List.replicate k (.returns .ok) ++ .reenters :: rest)
    (next : State → Host.Outcome State Fault Refusal) : (emitAll f s).thenOk next = .refused .reentrantCall := by
  rw [emitAll_reenters hk hs, Called.thenOk_reentered]

theorem deliverPayload_of_reenters {s : State} {p : List Byte}
    (hp : Memory.readFrom s.rxBuf 0 (s.expLen.toNat - 1) = some p) (hc : s.consumer = .reenters) :
    deliverPayload s = .refused .reentrantCall := by
  simp [deliverPayload, hp, deliver, hc]

/-- A checksum pair emits its reply before anything else, ACK or NAK (R112, R113). -/
theorem exec_checksumPair_of_sink_reenters {i : Instr} {b : Byte} {s : State} {rest : List Answer}
    (hc : contentByte i = some b) (hat : AtChecksumPair s) (hs : s.sink = .reenters :: rest) :
    exec i s = .refused .reentrantCall := by
  by_cases hv : pairValue s.nib (hexVal b) = s.cksum
  · exact (exec_checksumPair_of_match hc hat hv).trans (emit_thenOk_of_reenters (by exact hs) _ _)
  · exact (exec_checksumPair_of_mismatch hc hat hv).trans (emit_thenOk_of_reenters (by exact hs) _ _)

/-- Settles O46: one clause for each call out of a transaction. -/
theorem reentryIsRefused : Obligations.ReentryIsRefused := by
  refine ⟨?send, ?resend, ?reply, ?delivery⟩
  case send =>
    intro p s k rest hp hk hs
    exact (execCmdSend_of_fits hp).trans (emitAll_thenOk_of_reenters hk hs _)
  case resend =>
    intro x s f k rest hread hk hs
    have hretains := State.retains_of_getElem? hread (List.getElem?_eq_getElem hk)
    exact (execCmdResend_of_retains hretains x).trans (emitAll_thenOk_of_reenters hk hs _)
  case reply => exact fun _ _ _ _ => exec_checksumPair_of_sink_reenters
  case delivery =>
    intro i b s p hc hat hv hs hp hcons
    rw [exec_checksumPair_of_match hc hat hv, emit_thenOk_of_takes (by exact hs)]
    exact deliverPayload_of_reenters hp hcons

/-- Settles O54: `State.MayReenter` is the statement's own condition on the environment. -/
theorem onlyReentryIsRefused : Obligations.OnlyReentryIsRefused := fun _ _ _ => exec_refused

/-! ### After RESET -/

/-- The classes of R60 exclude each other: a digit or another byte is no 0x0A, ACK or NAK. -/
theorem ne_control_of_byteClass {b : Byte} (hb : byteClass b = .hex ∨ byteClass b = .other) :
    b ≠ 0x0A ∧ b ≠ 0x06 ∧ b ≠ 0x15 := by
  refine ⟨?_, ?_, ?_⟩ <;> rintro rfl <;> revert hb <;> decide

/-- Settles O1: the RESET event is a directive whose state is outside a frame, Idle, and retains no frame. -/
theorem resetValuesAndFirstTransactions : Obligations.ResetValuesAndFirstTransactions := by
  intro s rest hs
  refine ⟨_, step_of_directive hs rfl, ?registers, ?junk, ?ready, ?resend⟩
  case registers => simp [AckState.code]
  case junk =>
    intro b hb
    exact (exec_rxInstr_of_noise (ne_control_of_byteClass hb) _).trans (contentOrJunk_of_idle rfl b)
  case ready => exact exec_cmdReady_of_status rfl
  case resend => exact execCmdResend_of_nothingRetained rfl

end Sys2Proof.Machine
end

section
/-! The round trip of a frame (43_transmit.md R166): what a receiver holds after 0x0A, the length byte and the payload bytes so
far, one lemma for each kind of pair, and the content a SEND emits fed to it. -/

namespace Sys2Proof.Machine

/-! ### Bytes fed one list after the other -/

theorem runInstrs_append {is : List Instr} {s t : State} (h : runInstrs is s = .next t) (js : List Instr) :
    runInstrs (is ++ js) s = runInstrs js t := by
  induction is generalizing s with
  | nil => rw [List.nil_append, Host.Outcome.next.inj h]
  | cons i is ih =>
    obtain ⟨u, hi, hrest⟩ := runInstrs_cons_next_iff.1 h
    rw [List.cons_append, runInstrs, hi]
    exact ih hrest

theorem feedBytes_append {bs : List Byte} {s t : State} (h : feedBytes bs s = .next t) (cs : List Byte) :
    feedBytes (bs ++ cs) s = feedBytes cs t := by
  rw [feedBytes, List.map_append]
  exact runInstrs_append h _

/-! ### The two digits of a byte -/

/-- No digit is the start marker, so inside a frame a digit is content. -/
theorem contentByte_rxInstr_hexDigit (x : Nibble) : contentByte (rxInstr (hexDigit x)) = some (hexDigit x) :=
  contentByte_rxInstr (by revert x; decide)

/-- Inside a frame, the high digit of `v` fed and answered Ok (R107). -/
def afterHighDigit (v : Byte) (s : State) : State :=
  { s with nib := v.extractLsb' 4 4, nibValid := true, trace := s.trace ++ [.returned .ok] }

/-- The pair the low digit of `v` then completes is `v` (R63). -/
theorem pairValue_afterHighDigit (v : Byte) (s : State) :
    pairValue (afterHighDigit v s).nib (hexVal (hexDigit (v.extractLsb' 0 4))) = v := by
  rw [hexVal_hexDigit]
  exact pairValue_nibbles v

theorem feedBytes_hexPair {v : Byte} {s t : State} (hr : s.receiving = true) (hn : s.nibValid = false)
    (hlow : exec (rxInstr (hexDigit (v.extractLsb' 0 4))) (afterHighDigit v s) = .next t) :
    feedBytes (hexPair v) s = .next t := by
  have hhigh := highNibbleIsStored _ _ s (contentByte_rxInstr_hexDigit (v.extractLsb' 4 4)) hr hn
  rw [hexVal_hexDigit] at hhigh
  exact (feedBytes_cons hhigh _).trans (feedBytes_cons hlow [])

/-! ### The receiver inside a frame -/

/-- The receiver `r` after 0x0A, the length byte `L` and the payload bytes `q`, each byte fed answered Ok. -/
def received (L : Byte) (q : List Byte) (r : State) : State :=
  { r with
    receiving := true, nibValid := false, nib := 0, lenValid := true, expLen := L
    bytesRead := BitVec.ofNat 8 q.length
    cksum := addBytes L q
    rxBuf := Memory.writeFrom r.rxBuf 0 q
    trace := r.trace ++ List.replicate (2 * q.length + 3) (.returned .ok) }

/-- From any state of the receiver, 0x0A and a length byte within the bound open the payload (R101, R110). -/
theorem feedBytes_length {r : State} {L : Byte} (hL : L.toNat ≤ r.params.maxMessageLength) :
    feedBytes (0x0A :: hexPair L) r = .next (received L [] r) := by
  have hsom : exec (rxInstr 0x0A) r = _ := rxSomOpensAFrame r
  rw [feedBytes_cons hsom]
  refine feedBytes_hexPair rfl rfl ((lengthPairSeedsTheChecksum _ _ _ (contentByte_rxInstr_hexDigit _) rfl rfl rfl ?_).trans ?_)
  · rwa [pairValue_afterHighDigit]
  · rw [pairValue_afterHighDigit]
    simp [received, afterHighDigit, addBytes, Memory.writeFrom, List.replicate_succ]

theorem replicate_append_pair {α : Type} (n : Nat) (a : α) :
    List.replicate n a ++ [a, a] = List.replicate (n + 2) a := List.replicate_append_replicate (m := 2)

theorem Memory.writeFrom_concat (m : Memory) (i : Nat) (vs : List Byte) (v : Byte) :
    Memory.writeFrom m i (vs ++ [v]) = Memory.write (Memory.writeFrom m i vs) (i + vs.length) v := by
  induction vs generalizing m i with
  | nil => rfl
  | cons u vs ih =>
    rw [List.cons_append, Memory.writeFrom, ih, Memory.writeFrom, List.length_cons, Nat.add_right_comm, Nat.add_assoc]

/-- A payload byte the length byte counts, at an index RXBUF has, joins those received (R111). -/
theorem feedBytes_payloadByte {r : State} {L v : Byte} {q : List Byte} (hL : q.length + 1 < L.toNat)
    (hbuf : q.length < rxBufSize) :
    feedBytes (hexPair v) (received L q r) = .next (received L (q ++ [v]) r) := by
  have hcount : (afterHighDigit v (received L q r)).bytesRead.toNat = q.length := Nat.mod_eq_of_lt (by omega)
  have hexp : (afterHighDigit v (received L q r)).expLen = L := rfl
  obtain ⟨t, hexec, rfl, -⟩ := payloadPairIsStored _ _ (afterHighDigit v (received L q r))
    (contentByte_rxInstr_hexDigit (v.extractLsb' 0 4)) rfl rfl rfl (by rw [hcount, hexp]; omega) (by rwa [hcount])
  refine (feedBytes_hexPair rfl rfl hexec).trans ?_
  rw [pairValue_afterHighDigit, hcount]
  simp [received, afterHighDigit, addBytes_append, addBytes, Memory.writeFrom_concat, BitVec.ofNat_add,
    replicate_append_pair, Nat.mul_add]

/-- By induction on the payload bytes still to come. -/
theorem feedBytes_payload {r : State} {L : Byte} (p q : List Byte) (hL : q.length + p.length < L.toNat)
    (hbuf : q.length + p.length ≤ rxBufSize) :
    feedBytes (hexPairs p) (received L q r) = .next (received L (q ++ p) r) := by
  induction p generalizing q with
  | nil => rw [List.append_nil]; rfl
  | cons v p ih =>
    rw [List.length_cons] at hL hbuf
    have hlen : (q ++ [v]).length = q.length + 1 := by simp
    rw [hexPairs, feedBytes_append (feedBytes_payloadByte (by omega) (by omega)), ih _ (by omega) (by omega),
      List.append_assoc, List.singleton_append]

/-- The checksum of the bytes received is answered with 0x06, the delivery of the payload and Ok (R112). -/
theorem feedBytes_checksum {r : State} {L : Byte} {p : List Byte} (hL : L.toNat = p.length + 1) (hsink : SinkTakes 1 r)
    (hcons : r.consumer = .returns .ok) :
    ∃ u, feedBytes (hexPair (addBytes L p)) (received L p r) = .next u ∧
      u.trace = (received L p r).trace ++ [.returned .ok, .offered 0x06 .ok, .delivered p .ok, .returned .ok] := by
  have hcount : (BitVec.ofNat 8 p.length).toNat = p.length := Nat.mod_eq_of_lt (by omega)
  have hread : Memory.readFrom (Memory.writeFrom r.rxBuf 0 p) 0 (L.toNat - 1) = some p := by
    rw [hL]
    exact Memory.readFrom_writeFrom _ 0 p
  have hat : AtChecksumPair (afterHighDigit (addBytes L p) (received L p r)) :=
    ⟨rfl, rfl, rfl, show ((BitVec.ofNat 8 p.length).toNat : Int) = (L.toNat : Int) - 1 by omega⟩
  obtain ⟨-, hdelivers⟩ := matchingChecksumAcksAndDelivers _ _ _
    (contentByte_rxInstr_hexDigit ((addBytes L p).extractLsb' 0 4)) hat (pairValue_afterHighDigit _ _)
  refine ⟨_, feedBytes_hexPair rfl rfl (hdelivers p .ok hsink hread hcons), ?_⟩
  exact List.append_assoc _ [_] _

/-! ### The frame a SEND emits -/

theorem hexPairs_append (bs cs : List Byte) : hexPairs (bs ++ cs) = hexPairs bs ++ hexPairs cs := by
  simp only [hexPairs_eq_flatMap, List.flatMap_append]

theorem frameContent_eq (p : List Byte) :
    frameContent p = hexPair (lengthByte p) ++ (hexPairs p ++ hexPair (checksumByte p)) := by
  rw [frameContent, frameBytes, hexPairs, hexPairs_append]
  rfl

theorem acceptedBytes_takenBytes (f : List Byte) : acceptedBytes (takenBytes f) = f := by
  rw [acceptedBytes, takenBytes, List.filterMap_map]
  exact List.filterMap_some

/-- What the sink accepts of a SEND within the bound is its frame (R160). -/
theorem acceptedBytes_of_send {p : List Byte} {s t : State} (hp : p.length ≤ s.params.maxMessageLength)
    (hsink : SinkTakes (txFrame s.params p).length s) (h : exec (.cmdSend p) s = .next t) :
    acceptedBytes (t.trace.drop s.trace.length) = txFrame s.params p := by
  obtain rfl := Host.Outcome.next.inj ((execCmdSend_takes hp hsink).symm.trans h)
  have hshown : acceptedBytes (takenBytes (txFrame s.params p) ++ [.returned .ok]) = txFrame s.params p := by
    rw [acceptedBytes, List.filterMap_append]
    exact (List.append_nil _).trans (acceptedBytes_takenBytes _)
  simpa using hshown

/-- What a receiver shows of the frame of `p` after a 0x0A: an Ok for each byte but the last, and on that the reply, the
delivery and Ok (R112). -/
def frameOutputs (p : List Byte) : List Output :=
  List.replicate (2 * p.length + 3) (.returned .ok) ++
    [.returned .ok, .offered 0x06 .ok, .delivered p .ok, .returned .ok]

theorem deliveredPayloads_frameOutputs (p : List Byte) : deliveredPayloads (frameOutputs p) = [p] := by
  simp [frameOutputs, deliveredPayloads, Output.payload, List.filterMap_replicate, List.filterMap_cons]

theorem offeredBytes_frameOutputs (p : List Byte) : offeredBytes (frameOutputs p) = [0x06] := by
  simp [frameOutputs, offeredBytes, Output.offeredByte, List.filterMap_replicate, List.filterMap_cons]

theorem acceptedBytes_frameOutputs (p : List Byte) : acceptedBytes (frameOutputs p) = [0x06] := by
  simp [frameOutputs, acceptedBytes, Output.acceptedByte, List.filterMap_replicate, List.filterMap_cons]

theorem returnedStatuses_frameOutputs (p : List Byte) :
    returnedStatuses (frameOutputs p) = List.replicate ((frameContent p).length + 1) .ok := by
  simp [frameOutputs, returnedStatuses, Output.status, List.filterMap_replicate, List.filterMap_cons,
    frameContent_length, replicate_append_pair, Nat.mul_add]

/-- A frame within the bound, fed after 0x0A to any state of a receiver whose sink and consumer answer Ok: the length pair, the
payload pairs and the checksum pair in turn. -/
theorem feedBytes_frame {p : List Byte} {r : State} (hp : p.length + 1 ≤ r.params.maxMessageLength)
    (hbuf : p.length ≤ rxBufSize) (hsink : SinkTakes 1 r) (hcons : r.consumer = .returns .ok) :
    ∃ u, feedBytes (0x0A :: frameContent p) r = .next u ∧ u.trace = r.trace ++ frameOutputs p := by
  have hL : (lengthByte p).toNat = p.length + 1 := Nat.mod_eq_of_lt (by rw [rxBufSize] at hbuf; omega)
  have hlength := feedBytes_length (r := r) (hL ▸ hp)
  have hpayload := feedBytes_payload (r := r) (L := lengthByte p) p [] (by simp [hL]) (by simpa using hbuf)
  obtain ⟨u, hchecksum, htr⟩ := feedBytes_checksum hL hsink hcons
  refine ⟨u, ?_, htr.trans (List.append_assoc ..)⟩
  rw [frameContent_eq, ← List.cons_append, feedBytes_append hlength, feedBytes_append hpayload]
  exact hchecksum

/-- Settles O45: what the sink accepted is the frame of `p`, and a receiver with the same bound takes it pair by pair. -/
theorem sentFrameRoundTrips : Obligations.SentFrameRoundTrips := by
  intro p s t r content hlegal hp hsink hsend hcontent hbound hsink' hcons
  have hsent := acceptedBytes_of_send (by omega) hsink hsend
  obtain rfl : frameContent p = content := List.append_cancel_left (hsent.symm.trans hcontent)
  have hbuf : p.length ≤ rxBufSize := by
    rw [rxBufSize]
    omega
  obtain ⟨u, hu, htr⟩ := feedBytes_frame (hbound ▸ hp) hbuf hsink' hcons
  exact ⟨u, _, hu, htr, deliveredPayloads_frameOutputs p, offeredBytes_frameOutputs p, acceptedBytes_frameOutputs p,
    returnedStatuses_frameOutputs p⟩

end Sys2Proof.Machine
end

section
/-! What a RESET leaves (70_reset_and_hazards.md R280) and where a payload pair is stored (20_memory.md R41). -/

namespace Sys2Proof.Machine

/-- Settles O2: the RESET event is a directive, and the state it leads to is `resetRegisters`. -/
theorem resetEventKeepsTheEnvironment : Obligations.ResetEventKeepsTheEnvironment :=
  ⟨fun _ _ h => step_of_directive h rfl, rfl⟩

/-- Settles O6: EXP_LEN is at most MAX_MESSAGE_LENGTH (R31), which is at most 57 (R5). -/
theorem payloadIndexStaysInsideRxBuf : Obligations.PayloadIndexStaysInsideRxBuf := by
  intro s hs hl hb
  have hexp := hs.exp_len_bounded hl
  obtain ⟨-, hmax⟩ := hs.params_legal
  exact ⟨by omega, by omega⟩

end Sys2Proof.Machine
end

section
/-! The completions of one Q_UPDATE (45_reference_host_queue.md R202 to R204): what the queue's updates complete, and that each
branch of Q_UPDATE is a sequence of them. -/

namespace Sys2Proof.Machine

/-! ### Entries by their place behind the head -/

/-- The completion of the entry `k` places behind the head. -/
def HostQueue.completionAt (q : HostQueue) (k : Nat) : Nat := q.qbuf[q.slot k].completion

theorem HostQueue.slot_zero (q : HostQueue) : q.slot 0 = q.head := by
  ext
  simp [HostQueue.slot]

/-- A place behind a head moved `m` places on is `m` places further behind the old head. -/
theorem HostQueue.slot_of_head {q q' : HostQueue} {m : Nat} (h : q'.head = q.slot m) (k : Nat) :
    q'.slot k = q.slot (m + k) := by
  ext
  simp [HostQueue.slot, h, Nat.add_assoc]

/-! ### What the queue's updates complete -/

/-- `q'` is `q` with the entries at the head completed, from the head on and in order, as `done`: COUNT and HEAD tell their
number, and no entry has another completion than before. -/
structure HostQueue.Completes (q : HostQueue) (done : List (Nat × Status)) (q' : HostQueue) : Prop where
  completions : q'.completions = q.completions ++ done
  count : q'.count + done.length = q.count
  head : q'.head = q.slot done.length
  entries : ∀ k : Fin 8, q'.qbuf[k].completion = q.qbuf[k].completion
  inOrder : done.map Prod.fst = (List.range done.length).map q.completionAt

/-- An update that leaves the completions called, COUNT, HEAD and each entry's completion completes nothing. -/
theorem HostQueue.completes_nil {q q' : HostQueue} (hcalled : q'.completions = q.completions) (hcount : q'.count = q.count)
    (hhead : q'.head = q.head) (hentries : ∀ k : Fin 8, q'.qbuf[k].completion = q.qbuf[k].completion) :
    q.Completes [] q' where
  completions := by rw [hcalled, List.append_nil]
  count := hcount
  head := hhead.trans q.slot_zero.symm
  entries := hentries
  inOrder := rfl

theorem HostQueue.completes_self (q : HostQueue) : q.Completes [] q := completes_nil rfl rfl rfl fun _ => rfl

theorem HostQueue.Completes.completionAt {q q' : HostQueue} {done : List (Nat × Status)} (h : q.Completes done q') (k : Nat) :
    q'.completionAt k = q.completionAt (done.length + k) := by
  rw [HostQueue.completionAt, h.entries, HostQueue.slot_of_head h.head, HostQueue.completionAt]

theorem HostQueue.Completes.trans {q q' q'' : HostQueue} {done done' : List (Nat × Status)} (h : q.Completes done q')
    (h' : q'.Completes done' q'') : q.Completes (done ++ done') q'' where
  completions := by rw [h'.completions, h.completions, List.append_assoc]
  count := by
    have hfirst := h.count
    have hsecond := h'.count
    rw [List.length_append]
    omega
  head := by rw [h'.head, HostQueue.slot_of_head h.head, List.length_append]
  entries k := (h'.entries k).trans (h.entries k)
  inOrder := by
    rw [List.map_append, h.inOrder, h'.inOrder, List.length_append, List.range_add, List.map_append, List.map_map]
    congr 1
    exact List.map_congr_left fun k _ => h.completionAt k

/-- Complete(r) on a queue that is not empty completes the entry at the head (R202). -/
theorem complete_completes {q : HostQueue} (hq : 0 < q.count) (r : Status) :
    q.Completes [(q.headEntry.completion, r)] (complete r q) where
  completions := rfl
  count := Nat.sub_add_cancel hq
  head := rfl
  entries _ := rfl
  inOrder := by simp [HostQueue.completionAt, HostQueue.slot_zero, HostQueue.headEntry]

/-- Counting an attempt writes the head entry's ATTEMPTS alone (R203). -/
theorem countAttempt_completes_nil (q : HostQueue) : q.Completes [] (countAttempt q) := by
  refine HostQueue.completes_nil rfl rfl rfl fun k => ?_
  obtain rfl | hk := eq_or_ne k q.head
  · have hset : (countAttempt q).qbuf[q.head] = { q.headEntry with attempts := q.headEntry.attempts + 1 } :=
      Vector.getElem_set_self _
    rw [hset]
    rfl
  · exact congrArg QueueEntry.completion (Vector.getElem_set_ne q.head.isLt k.isLt (Fin.val_ne_of_ne hk.symm))

/-! ### The host's calls, each as completions from the head on -/

/-- From `h` a host call ends, if it does, with some entries completed from the head on. -/
def CompletesFromHead (h : HostSystem) (o : HostOutcome) : Prop :=
  ∀ c h', o = .next (c, h') → ∃ done, h.queue.Completes done h'.queue

theorem completesFromHead_next {h h' : HostSystem} {done : List (Nat × Status)} (hq : h.queue.Completes done h'.queue)
    (c : Status) : CompletesFromHead h (.next (c, h')) := by
  rintro _ _ ⟨⟩
  exact ⟨done, hq⟩

theorem CompletesFromHead.of_completes {h h' : HostSystem} {o : HostOutcome} {done : List (Nat × Status)}
    (hq : h.queue.Completes done h'.queue) (ho : CompletesFromHead h' o) : CompletesFromHead h o := by
  intro c h'' heq
  obtain ⟨done', hq'⟩ := ho c h'' heq
  exact ⟨_, hq.trans hq'⟩

/-- The block's transactions leave the queue as it is (log entry 19). -/
theorem issue_completesFromHead {h : HostSystem} {k : Status → HostSystem → HostOutcome}
    (hk : ∀ c b, CompletesFromHead h (k c { h with block := b })) (i : Instr) (now : Nat) :
    CompletesFromHead h (issue i now h k) := by
  unfold issue
  split
  · exact hk _ _
  · rintro _ _ ⟨⟩
  · rintro _ _ ⟨⟩

/-- Only a payload that is too big completes at its start (R202). -/
theorem headStarted_completesFromHead {h : HostSystem} (hq : 0 < h.queue.count) (c : Status) :
    CompletesFromHead h (headStarted c h) := by
  unfold headStarted
  split
  · have hstarted : h.queue.Completes [] { h.queue with inFlight := true } :=
      HostQueue.completes_nil rfl rfl rfl fun _ => rfl
    exact completesFromHead_next (h' := { h with queue := { h.queue with inFlight := true } }) hstarted _
  · split
    · exact completesFromHead_next (complete_completes hq _) _
    · exact completesFromHead_next h.queue.completes_self _

theorem startHead_completesFromHead {h : HostSystem} (hq : 0 < h.queue.count) (now : Nat) :
    CompletesFromHead h (startHead now h) := by
  unfold startHead
  split
  · exact headStarted_completesFromHead hq _
  · exact issue_completesFromHead (fun c b => headStarted_completesFromHead (h := { h with block := b }) hq c) _ _

/-- The head entry completes, and the next one is started if there is one (R203). -/
theorem completeAndGoOn_completesFromHead {h : HostSystem} (hq : 0 < h.queue.count) (r : Status) (now : Nat) :
    CompletesFromHead h (completeAndGoOn r now h) := by
  have hhead := complete_completes hq r
  unfold completeAndGoOn
  simp only
  split
  · exact .of_completes hhead (startHead_completesFromHead ‹_› now)
  · exact completesFromHead_next hhead _

theorem retryOrGiveUp_completesFromHead {h : HostSystem} (hq : 0 < h.queue.count) (r : Status) (now : Nat) :
    CompletesFromHead h (retryOrGiveUp r now h) := by
  have hcounted : h.queue.Completes [] { h with queue := countAttempt h.queue }.queue := countAttempt_completes_nil _
  refine .of_completes hcounted ?_
  unfold retryOrGiveUp
  simp only
  split
  · exact issue_completesFromHead (fun c _ => completesFromHead_next (HostQueue.completes_self _) c) _ _
  · exact completeAndGoOn_completesFromHead (by exact hq) r now

/-- READY's status decides whether the head entry completes, is retried or is left in flight (R203). -/
theorem updateOn_completesFromHead {h : HostSystem} (hq : 0 < h.queue.count) (now : Nat) (c : Status) :
    CompletesFromHead h (updateOn now c h) := by
  unfold updateOn
  split
  · exact completeAndGoOn_completesFromHead hq _ now
  · exact retryOrGiveUp_completesFromHead hq _ now
  · exact retryOrGiveUp_completesFromHead hq _ now
  · exact completesFromHead_next h.queue.completes_self _

theorem queueUpdate_completesFromHead (now : Nat) (h : HostSystem) : CompletesFromHead h (queueUpdate now h) := by
  unfold queueUpdate
  split
  · exact completesFromHead_next h.queue.completes_self _
  · have hq : 0 < h.queue.count := Nat.pos_of_ne_zero ‹_›
    split
    · exact startHead_completesFromHead hq now
    · exact issue_completesFromHead (fun c b => updateOn_completesFromHead (h := { h with block := b }) hq now c) _ _

/-- Settles O59: every branch of Q_UPDATE completes entries from the head on. -/
theorem updateCompletesEntriesInOrder : Obligations.UpdateCompletesEntriesInOrder := by
  intro now h h' c hupdate
  obtain ⟨done, hdone⟩ := queueUpdate_completesFromHead now h c h' hupdate
  exact ⟨done, hdone.completions, hdone.count, hdone.inOrder⟩

end Sys2Proof.Machine
end
